-- ==== Sys2Proof/Word.lean ====
section
/-! DEFINITION. The word and byte types of the engine (spec/00_scope.md rules R7 and R16). -/

namespace Sys2Proof

/-- Every word of every algorithm: 32 bits, unsigned, arithmetic modulo 2^32 (R7). -/
abbrev Word := BitVec 32

/-- A byte is 8 bits (R16, R50). -/
abbrev Byte := BitVec 8

/-- The 8-byte block of the Feistel operations, byte 0 first (R12, R33). -/
abbrev Block := Vector Byte 8

end Sys2Proof
end

