-- ==== Sys2Proof/Syntax.lean ====
section
/-! DEFINITION. The sixteen operations of spec/opcode_table.json, one constructor a row, each with
every field of `CMD` that its row does not fix (R81, R91). Fields that the operation ignores are kept,
so that a command word is read back bit for bit. -/

namespace Sys2Proof

/-- An operation with the fields of its command word. `dir` is `DIR` (false encrypt, true decrypt),
`mode` is `MODE`, `rnd` is `RND`, `ivp` and `np` are the presence flags of an IV and of a nonce. -/
inductive Instr where
  | rfcBlk (dir : Bool) (mode rnd : BitVec 2) (ivp np : Bool)
  | rfcXor (dir : Bool) (mode rnd : BitVec 2) (ivp np : Bool)
  | estBlk (dir : Bool) (mode rnd : BitVec 2) (ivp np : Bool)
  | estXor (dir : Bool) (mode rnd : BitVec 2) (ivp np : Bool)
  | faEnc (mode rnd : BitVec 2) (ivp np : Bool)
  | faDec (mode rnd : BitVec 2) (ivp np : Bool)
  | fbEnc (mode rnd : BitVec 2) (ivp np : Bool)
  | fbDec (mode rnd : BitVec 2) (ivp np : Bool)
  | faIndEnc (rnd : BitVec 2) (ivp np : Bool)
  | faIndDec (rnd : BitVec 2) (ivp np : Bool)
  | faChnEnc (rnd : BitVec 2) (ivp np : Bool)
  | faChnDec (rnd : BitVec 2) (ivp np : Bool)
  | fbIndEnc (rnd : BitVec 2) (ivp np : Bool)
  | fbIndDec (rnd : BitVec 2) (ivp np : Bool)
  | fbChnEnc (rnd : BitVec 2) (ivp np : Bool)
  | fbChnDec (rnd : BitVec 2) (ivp np : Bool)
  deriving DecidableEq, Repr

end Sys2Proof
end

