-- ==== Sys2Proof/WellFormed.lean ====
section
/-! DEFINITION. Which terms of `Instr` stand for a legal command word. -/

namespace Sys2Proof

/-- The only field value that is reserved inside a row of the opcode table: `RND = 3` with `EST`
(R86, R92 step 3, R93). -/
def Instr.wellFormed : Instr → Bool
  | .rfcBlk _ _ _ _ _ => true
  | .rfcXor _ _ _ _ _ => true
  | .estBlk _ _ rnd _ _ => rnd != 3
  | .estXor _ _ rnd _ _ => rnd != 3
  | .faEnc _ _ _ _ => true
  | .faDec _ _ _ _ => true
  | .fbEnc _ _ _ _ => true
  | .fbDec _ _ _ _ => true
  | .faIndEnc _ _ _ => true
  | .faIndDec _ _ _ => true
  | .faChnEnc _ _ _ => true
  | .faChnDec _ _ _ => true
  | .fbIndEnc _ _ _ => true
  | .fbIndDec _ _ _ => true
  | .fbChnEnc _ _ _ => true
  | .fbChnDec _ _ _ => true

end Sys2Proof
end

