-- ==== Sys2Proof/Decode.lean ====
section
/-! DEFINITION. The command word: its fields (R81), the decoder of R92 (total, rejecting by name), the
encoder, and the opcode table's match and mask (R91). -/

namespace Sys2Proof

/-- Why a `CMD` word selects no operation (R92 steps 1, 2, 3 and 6; R93). -/
inductive DecodeError where
  /-- `CMD[31:14]` or `CMD[7]` is not 0 (R88). -/
  | reservedBits
  /-- `ALG` is 4 to 15 (R82). -/
  | reservedAlg
  /-- `FN` is 2 or 3 (R83). -/
  | reservedFn
  /-- `ALG = EST` and `RND = 3` (R86). -/
  | reservedRnd
  /-- a Feistel message command with `MODE` 2 or 3 (R85). -/
  | unknownMode
  deriving DecidableEq, Repr

/-- What the decoder answers for one command word. -/
inductive Decoded where
  | ok (i : Instr)
  | reject (e : DecodeError)
  deriving DecidableEq, Repr

/-- `ALG`, bits 3:0 (R81). -/
def fieldAlg (w : BitVec 32) : BitVec 4 := w.extractLsb' 0 4
/-- `FN`, bits 5:4 (R81). -/
def fieldFn (w : BitVec 32) : BitVec 2 := w.extractLsb' 4 2
/-- `DIR`, bit 6 (R81). -/
def fieldDir (w : BitVec 32) : Bool := w.getLsbD 6
/-- Reserved bit 7 (R81, R88). -/
def fieldBit7 (w : BitVec 32) : Bool := w.getLsbD 7
/-- `MODE`, bits 9:8 (R81). -/
def fieldMode (w : BitVec 32) : BitVec 2 := w.extractLsb' 8 2
/-- `RND`, bits 11:10 (R81). -/
def fieldRnd (w : BitVec 32) : BitVec 2 := w.extractLsb' 10 2
/-- `IVP`, bit 12 (R81). -/
def fieldIvp (w : BitVec 32) : Bool := w.getLsbD 12
/-- `NP`, bit 13 (R81). -/
def fieldNp (w : BitVec 32) : Bool := w.getLsbD 13
/-- Reserved bits 31:14 (R81, R88). -/
def fieldHigh (w : BitVec 32) : BitVec 18 := w.extractLsb' 14 18

/-- The row of R91 that a word with legal fields selects (R92 step 7). -/
def selectOperation (alg : BitVec 4) (fn : BitVec 2) (dir : Bool) (mode rnd : BitVec 2)
    (ivp np : Bool) : Instr :=
  if alg = 0 then
    if fn = 0 then .rfcBlk dir mode rnd ivp np else .rfcXor dir mode rnd ivp np
  else if alg = 1 then
    if fn = 0 then .estBlk dir mode rnd ivp np else .estXor dir mode rnd ivp np
  else if alg = 2 then
    if fn = 0 then
      if dir then .faDec mode rnd ivp np else .faEnc mode rnd ivp np
    else if mode = 0 then
      if dir then .faIndDec rnd ivp np else .faIndEnc rnd ivp np
    else
      if dir then .faChnDec rnd ivp np else .faChnEnc rnd ivp np
  else
    if fn = 0 then
      if dir then .fbDec mode rnd ivp np else .fbEnc mode rnd ivp np
    else if mode = 0 then
      if dir then .fbIndDec rnd ivp np else .fbIndEnc rnd ivp np
    else
      if dir then .fbChnDec rnd ivp np else .fbChnEnc rnd ivp np

/-- The decoding procedure R92, without its two steps about `LEN` (4 and 5), which are no property of
the word: each meaning makes them, and `State.rejectCommand` for a word that is rejected here. -/
def decode (w : BitVec 32) : Decoded :=
  if fieldHigh w ≠ 0 ∨ fieldBit7 w = true then .reject .reservedBits
  else if 3 < (fieldAlg w).toNat then .reject .reservedAlg
  else if 1 < (fieldFn w).toNat then .reject .reservedFn
  else if fieldAlg w = 1 ∧ fieldRnd w = 3 then .reject .reservedRnd
  else if 2 ≤ (fieldAlg w).toNat ∧ fieldFn w = 1 ∧ 2 ≤ (fieldMode w).toNat then .reject .unknownMode
  else .ok (selectOperation (fieldAlg w) (fieldFn w) (fieldDir w) (fieldMode w) (fieldRnd w)
    (fieldIvp w) (fieldNp w))

/-- The command word with the given fields and its reserved bits 0 (R81). -/
def cmdWord (alg : BitVec 4) (fn : BitVec 2) (dir : Bool) (mode rnd : BitVec 2) (ivp np : Bool) :
    BitVec 32 :=
  0#18 ++ BitVec.ofBool np ++ BitVec.ofBool ivp ++ rnd ++ mode ++ 0#1 ++ BitVec.ofBool dir ++ fn ++ alg

/-- The command word of an operation (R81, R91). -/
def encode : Instr → BitVec 32
  | .rfcBlk dir mode rnd ivp np => cmdWord 0 0 dir mode rnd ivp np
  | .rfcXor dir mode rnd ivp np => cmdWord 0 1 dir mode rnd ivp np
  | .estBlk dir mode rnd ivp np => cmdWord 1 0 dir mode rnd ivp np
  | .estXor dir mode rnd ivp np => cmdWord 1 1 dir mode rnd ivp np
  | .faEnc mode rnd ivp np => cmdWord 2 0 false mode rnd ivp np
  | .faDec mode rnd ivp np => cmdWord 2 0 true mode rnd ivp np
  | .fbEnc mode rnd ivp np => cmdWord 3 0 false mode rnd ivp np
  | .fbDec mode rnd ivp np => cmdWord 3 0 true mode rnd ivp np
  | .faIndEnc rnd ivp np => cmdWord 2 1 false 0 rnd ivp np
  | .faIndDec rnd ivp np => cmdWord 2 1 true 0 rnd ivp np
  | .faChnEnc rnd ivp np => cmdWord 2 1 false 1 rnd ivp np
  | .faChnDec rnd ivp np => cmdWord 2 1 true 1 rnd ivp np
  | .fbIndEnc rnd ivp np => cmdWord 3 1 false 0 rnd ivp np
  | .fbIndDec rnd ivp np => cmdWord 3 1 true 0 rnd ivp np
  | .fbChnEnc rnd ivp np => cmdWord 3 1 false 1 rnd ivp np
  | .fbChnDec rnd ivp np => cmdWord 3 1 true 1 rnd ivp np

/-- The `match` value of the operation's row of R91. -/
def rowMatch : Instr → BitVec 32
  | .rfcBlk _ _ _ _ _ => 0x00000000
  | .rfcXor _ _ _ _ _ => 0x00000010
  | .estBlk _ _ _ _ _ => 0x00000001
  | .estXor _ _ _ _ _ => 0x00000011
  | .faEnc _ _ _ _ => 0x00000002
  | .faDec _ _ _ _ => 0x00000042
  | .fbEnc _ _ _ _ => 0x00000003
  | .fbDec _ _ _ _ => 0x00000043
  | .faIndEnc _ _ _ => 0x00000012
  | .faIndDec _ _ _ => 0x00000052
  | .faChnEnc _ _ _ => 0x00000112
  | .faChnDec _ _ _ => 0x00000152
  | .fbIndEnc _ _ _ => 0x00000013
  | .fbIndDec _ _ _ => 0x00000053
  | .fbChnEnc _ _ _ => 0x00000113
  | .fbChnDec _ _ _ => 0x00000153

/-- The `mask` value of the operation's row of R91. -/
def rowMask : Instr → BitVec 32
  | .rfcBlk _ _ _ _ _ => 0xFFFFC0BF
  | .rfcXor _ _ _ _ _ => 0xFFFFC0BF
  | .estBlk _ _ _ _ _ => 0xFFFFC0BF
  | .estXor _ _ _ _ _ => 0xFFFFC0BF
  | .faEnc _ _ _ _ => 0xFFFFC0FF
  | .faDec _ _ _ _ => 0xFFFFC0FF
  | .fbEnc _ _ _ _ => 0xFFFFC0FF
  | .fbDec _ _ _ _ => 0xFFFFC0FF
  | .faIndEnc _ _ _ => 0xFFFFC3FF
  | .faIndDec _ _ _ => 0xFFFFC3FF
  | .faChnEnc _ _ _ => 0xFFFFC3FF
  | .faChnDec _ _ _ => 0xFFFFC3FF
  | .fbIndEnc _ _ _ => 0xFFFFC3FF
  | .fbIndDec _ _ _ => 0xFFFFC3FF
  | .fbChnEnc _ _ _ => 0xFFFFC3FF
  | .fbChnDec _ _ _ => 0xFFFFC3FF

/-- The instruction the decoder reads from a word of the opcode table. A command word has 32 bits and
stands in one register, so there is no byte order to choose (R80, R94); a number that does not fit in
32 bits is no command word. -/
def decodeTableWord (nbits w : Nat) : Option Instr :=
  if nbits ≤ 32 ∧ w < 2 ^ 32 then
    match decode (BitVec.ofNat 32 w) with
    | .ok i => some i
    | .reject _ => none
  else none

end Sys2Proof
end

