-- ==== Sys2Proof/Machine/State.lean ====
section
/-! DEFINITION. The state of one engine as plain data: command registers and input buffers (R21 to R26),
result registers (R27, R28), working registers (R29 to R33), sequencing state (R34), and the model's own
two fields: the open parameter `MAX_LEN` and the host's pending actions. Reset (R39, R270). -/

namespace Sys2Proof.Machine

/-- Whether a command is running (R34, R254). -/
inductive Phase where
  | idle
  | busy
  deriving DecidableEq, Repr

/-- The four byte buffers that the host writes and the engine reads (R50). -/
inductive InBuf where
  | key
  | nonce
  | iv
  | din
  deriving DecidableEq, Repr

/-- The error kinds of R231. -/
inductive ErrKind where
  | invalidKeyLength
  | invalidIvLength
  | invalidNonceLength
  | missingIV
  | missingNonce
  | unsupportedMode
  | decryptionFailed
  | illegalCommand
  deriving DecidableEq, Repr

/-- One write by the host to a command register, or of bytes at an offset of an input buffer
(R21 to R26). -/
inductive HostWrite where
  | cmd (v : BitVec 32)
  | klen (n : BitVec 8)
  | nlen (n : BitVec 8)
  | ivlen (n : BitVec 8)
  | ctr (v : Word)
  | len (n : Nat)
  | bytes (b : InBuf) (off : Nat) (bs : List Byte)
  deriving DecidableEq, Repr

/-- What the host can do to the engine that changes its state (R20): write, issue `START`, assert reset;
and wait until `STATUS.BUSY = 0`, which changes nothing and lets the engine finish first. -/
inductive HostAction where
  | write (w : HostWrite)
  | start
  | wait
  | reset
  deriving DecidableEq, Repr

/-- Why the machine stops with a fault. -/
inductive Fault where
  /-- Raised by `State.hostWrite`: a host write reaches past the extent of the buffer that R51 guarantees.
  Safe: the model stops where an engine with a larger buffer would go on. -/
  | outsideBuffer (b : InBuf)
  deriving DecidableEq, Repr

/-- Why the model gives a step no meaning. -/
inductive Refusal where
  /-- Raised by `exec` for an instruction without a meaning; no arm is left. Safe. -/
  | notModelled (mnemonic : String)
  /-- Raised by `State.reading`: a command that passed validation reads a byte of an input buffer that
  nothing has written since reset (R39, R272, U9: refuse). Safe: the spec gives such a command no meaning. -/
  | unwrittenByte (b : InBuf)
  /-- Raised by `State.hostAct`: the host writes a command register or an input buffer while
  `STATUS.BUSY = 1` (R66, R275, U8: refuse). Safe: the spec does not define what the engine then does. -/
  | writeWhileBusy
  deriving DecidableEq, Repr

/-- One byte buffer: (offset, byte) pairs, offsets strictly rising; an unlisted offset holds no value
(R39, U7, U9). -/
abbrev Memory := List Host.Cell

/-- The working registers, which no host can read or write (R29 to R34, R37). -/
structure Work where
  s : Vector Word 16
  x : Vector Word 16
  ctr : Word
  ks : Vector Byte 64
  v0 : Word
  v1 : Word
  sum : Word
  k : Vector Word 4
  prev : Block
  blk : Block
  i : Nat
  r : Nat
  deriving DecidableEq, Repr

/-- The state of one engine. -/
structure State where
  cmd : BitVec 32
  klen : BitVec 8
  key : Memory
  nlen : BitVec 8
  nonce : Memory
  ivlen : BitVec 8
  iv : Memory
  ctr : Word
  len : Nat
  din : Memory
  status : BitVec 8
  olen : Nat
  dout : Memory
  phase : Phase
  work : Work
  maxLen : Nat
  script : List HostAction
  deriving DecidableEq, Repr

/-- Everything that a host can read: the registers it writes, `STATUS`, `OLEN`, and `DOUT` where it holds
a value (R21, R27, R28, R37, R240). -/
structure HostView where
  cmd : BitVec 32
  klen : BitVec 8
  key : Memory
  nlen : BitVec 8
  nonce : Memory
  ivlen : BitVec 8
  iv : Memory
  ctr : Word
  len : Nat
  din : Memory
  status : BitVec 8
  olen : Nat
  dout : Memory
  deriving DecidableEq, Repr

/-- The working registers after reset. The spec leaves them unspecified and unobservable (R39); zero is
a DESIGN CHOICE (notes/assumptions/1.md). -/
def Work.reset : Work where
  s := Vector.replicate 16 0
  x := Vector.replicate 16 0
  ctr := 0
  ks := Vector.replicate 64 0
  v0 := 0
  v1 := 0
  sum := 0
  k := Vector.replicate 4 0
  prev := Vector.replicate 8 0
  blk := Vector.replicate 8 0
  i := 0
  r := 0

/-- The engine right after reset (R39, R270). `phase`, `status`, `olen` and `dout` are the spec's; the
command registers are zero by DESIGN CHOICE (notes/assumptions/1.md), the input buffers hold no value
(2.md), and the open parameter `MAX_LEN` has the largest value R14 allows (3.md). -/
def State.reset : State where
  cmd := 0
  klen := 0
  key := []
  nlen := 0
  nonce := []
  ivlen := 0
  iv := []
  ctr := 0
  len := 0
  din := []
  status := 0
  olen := 0
  dout := []
  phase := .idle
  work := Work.reset
  maxLen := 2 ^ 38
  script := []

/-- The answer of a step. -/
abbrev StepResult := Host.Outcome State Fault Refusal

end Sys2Proof.Machine
end

