-- ==== Sys2Proof/Machine/Flags.lean ====
section
/-! DEFINITION. `STATUS`, the engine's only status register: its fields (R27), the error codes (R231), and
the words that `START`, success and failure leave in it (R243, R244). No operation sets any other flag. -/

namespace Sys2Proof.Machine

/-- The numeric code of an error kind in `STATUS.ERR` (R231). -/
def errCode : ErrKind → BitVec 4
  | .invalidKeyLength => 1
  | .invalidIvLength => 2
  | .invalidNonceLength => 3
  | .missingIV => 4
  | .missingNonce => 5
  | .unsupportedMode => 6
  | .decryptionFailed => 7
  | .illegalCommand => 15

/-- `STATUS` from its fields: `ERR` in bits 7:4, bit 3 zero, `TAG` in bits 2:1, `BUSY` in bit 0 (R27). -/
def statusWord (err : BitVec 4) (tag : BitVec 2) (busy : Bool) : BitVec 8 :=
  err ++ 0#1 ++ tag ++ BitVec.ofBool busy

/-- `STATUS.BUSY`, bit 0 (R27). -/
def statusBusy (st : BitVec 8) : Bool := st.getLsbD 0
/-- `STATUS.TAG`, bits 2:1 (R27): 0 no result, 1 success, 2 failure. -/
def statusTag (st : BitVec 8) : BitVec 2 := st.extractLsb' 1 2
/-- `STATUS.ERR`, bits 7:4 (R27). -/
def statusErr (st : BitVec 8) : BitVec 4 := st.extractLsb' 4 4

/-- `STATUS` from `START` to completion: `BUSY = 1`, `TAG = 0`, `ERR = 0` (R244). -/
def statusRunning : BitVec 8 := statusWord 0 0 true
/-- `STATUS` after a success: `TAG = 1` (R27). -/
def statusSuccess : BitVec 8 := statusWord 0 1 false
/-- `STATUS` after a failure of kind `e`: `TAG = 2`, `ERR` the kind's code (R243). -/
def statusFailure (e : ErrKind) : BitVec 8 := statusWord (errCode e) 2 false

end Sys2Proof.Machine
end

