-- ==== Sys2Proof/Config.lean ====
section
/-! DEFINITION. The record types that hold the engine's algorithm parameters (R36: configuration, not
state; U15: keep them in one record). The values stand in Sys2Proof/Machine/Params.lean. -/

namespace Sys2Proof

/-- What one of the sixteen slots of an ARX state is loaded with (R111, R141). -/
inductive Slot where
  | const (j : Fin 4)
  | key (j : Fin 8)
  | nonce (j : Fin 3)
  | ctr
  | zero
  deriving DecidableEq, Repr

/-- Four indices into the working state, in the roles `a b c d` of a quarter-round (R112, R142). -/
structure Quad where
  a : Fin 16
  b : Fin 16
  c : Fin 16
  d : Fin 16
  deriving DecidableEq, Repr

/-- The parameters of one ARX cipher: its constant words (for a 32-byte and for a 16-byte key), the
layout of its state, the four rotation amounts in the order they are used, and the quads of its two
passes (R110 to R114, R140 to R144). -/
structure ArxParams where
  const32 : Vector Word 4
  const16 : Vector Word 4
  layout : Vector Slot 16
  rot : Vector Nat 4
  pass1 : List Quad
  pass2 : List Quad
  deriving DecidableEq, Repr

end Sys2Proof
end

