-- ==== Sys2Proof/Machine/Operands.lean ====
section
/-! DEFINITION. The word, byte and sequence primitives (R17, R18), the places where bytes and words meet
(R54 to R56), block splitting (R59, R200), and the round-count operand (R147). -/

namespace Sys2Proof.Machine

/-- `add32` (R17). -/
def add32 (a b : Word) : Word := a + b
/-- `sub32` (R17). -/
def sub32 (a b : Word) : Word := a - b
/-- `rotl32` (R17). -/
def rotl32 (a : Word) (n : Nat) : Word := a.rotateLeft n
/-- `shl32` (R17). -/
def shl32 (a : Word) (n : Nat) : Word := a <<< n
/-- `shr32`, a logical shift (R17, R172). -/
def shr32 (a : Word) (n : Nat) : Word := a >>> n

/-- `le32`: byte 0 is the least significant (R18). -/
def le32 (b0 b1 b2 b3 : Byte) : Word := b3 ++ b2 ++ b1 ++ b0
/-- `be32`: byte 0 is the most significant (R18). -/
def be32 (b0 b1 b2 b3 : Byte) : Word := b0 ++ b1 ++ b2 ++ b3
/-- `le_bytes32` (R18). -/
def leBytes32 (w : Word) : Vector Byte 4 :=
  #v[w.extractLsb' 0 8, w.extractLsb' 8 8, w.extractLsb' 16 8, w.extractLsb' 24 8]
/-- `be_bytes32` (R18). -/
def beBytes32 (w : Word) : Vector Byte 4 :=
  #v[w.extractLsb' 24 8, w.extractLsb' 16 8, w.extractLsb' 8 8, w.extractLsb' 0 8]

/-- `ceil_div` (R18), used with `b > 0`. -/
def ceilDiv (a b : Nat) : Nat := (a + b - 1) / b

/-- `xor_bytes` (R18); on sequences of different lengths it stops with the shorter, which is how the last
keystream block is cut to the message (R58). -/
def xorBytes (s t : List Byte) : List Byte := List.zipWith (· ^^^ ·) s t

/-- Little-endian word `j` of a byte sequence (R55). Every use reads inside the sequence. -/
def leWordAt (bs : List Byte) (j : Nat) : Word :=
  le32 (bs.getD (4 * j) 0) (bs.getD (4 * j + 1) 0) (bs.getD (4 * j + 2) 0) (bs.getD (4 * j + 3) 0)

/-- Big-endian word `j` of a byte sequence (R56). Every use reads inside the sequence. -/
def beWordAt (bs : List Byte) (j : Nat) : Word :=
  be32 (bs.getD (4 * j) 0) (bs.getD (4 * j + 1) 0) (bs.getD (4 * j + 2) 0) (bs.getD (4 * j + 3) 0)

/-- Sixteen words serialized little-endian: byte `4j + t` is byte `t` of word `j` (R54). -/
def leSerialize (x : Vector Word 16) : Vector Byte 64 :=
  Vector.ofFn fun p : Fin 64 => (leBytes32 x[p.val / 4])[p.val % 4]

/-- A block from the first eight bytes of a sequence, zero-extended when there are fewer (R59, R200). -/
def padBlock (bs : List Byte) : Block := Vector.ofFn fun j => bs.getD j.val 0

/-- Byte-wise exclusive or of two blocks (R57, R204, R205). -/
def xorBlock (a b : Block) : Block := Vector.zipWith (· ^^^ ·) a b

/-- The first `n` 8-byte blocks of a sequence, the last zero-extended. -/
def takeBlocks : Nat → List Byte → List Block
  | 0, _ => []
  | n + 1, d => padBlock (d.take 8) :: takeBlocks n (d.drop 8)

/-- `SPLIT8` (R200). -/
def split8 (d : List Byte) : List Block := takeBlocks (ceilDiv d.length 8) d

/-- The bytes of a list of blocks, concatenated (R202 to R205). -/
def joinBlocks (bs : List Block) : List Byte := bs.flatMap Vector.toList

/-- The four big-endian key words of a 16-byte key (R56, R170). -/
def feistelKeyWords (key : List Byte) : Vector Word 4 := Vector.ofFn fun j => beWordAt key j.val

/-- The round count of `EST` that `CMD.RND` selects; 3 is reserved (R86, R147). -/
def estRounds (rnd : BitVec 2) : Option Nat :=
  if rnd = 0 then some 20 else if rnd = 1 then some 12 else if rnd = 2 then some 8 else none

end Sys2Proof.Machine
end

