-- ==== Sys2Proof/Machine/Ops.lean ====
section
/-! DEFINITION. The shared operations: the byte buffers (R19, R50, R51), `START` and the two ways a command
ends, success and failure, the engine's only exception (R63, R243, R244), validation in the order of R241,
the operand reads, and what the host can do (R20, R66, R270, R275). -/

namespace Sys2Proof.Machine

/-! ### Byte buffers -/

/-- The byte at an offset; `none` where nothing has been written (R39, U7, U9). -/
def Memory.read : Memory → Nat → Option Byte
  | [], _ => none
  | (c, v) :: m, a => if c = a then some v else Memory.read m a

/-- Write one byte, keeping the offsets strictly rising (R62). -/
def Memory.write : Memory → Nat → Byte → Memory
  | [], a, b => [(a, b)]
  | (c, v) :: m, a, b =>
    if a < c then (a, b) :: (c, v) :: m
    else if a = c then (a, b) :: m
    else (c, v) :: Memory.write m a b

/-- `MemWrite(BUF + off, n, s)` with `n` the length of the sequence (R19). -/
def Memory.writeBytes : Memory → Nat → List Byte → Memory
  | m, _, [] => m
  | m, off, b :: bs => Memory.write (Memory.writeBytes m (off + 1) bs) off b

/-- `MemRead(BUF + off, n)`; `none` when one of the bytes has no value (R19). -/
def Memory.readBytes (m : Memory) : Nat → Nat → Option (List Byte)
  | _, 0 => some []
  | off, n + 1 =>
    match Memory.read m off, Memory.readBytes m (off + 1) n with
    | some b, some bs => some (b :: bs)
    | _, _ => none

/-- The canonical form: offsets strictly rising. -/
def Memory.wf : Memory → Bool
  | [] => true
  | [_] => true
  | (a, _) :: (c, v) :: m => decide (a < c) && Memory.wf ((c, v) :: m)

/-- An input buffer of the state. -/
def State.buf (s : State) : InBuf → Memory
  | .key => s.key
  | .nonce => s.nonce
  | .iv => s.iv
  | .din => s.din

/-- Replace an input buffer. -/
def State.setBuf (s : State) (b : InBuf) (m : Memory) : State :=
  match b with
  | .key => { s with key := m }
  | .nonce => { s with nonce := m }
  | .iv => { s with iv := m }
  | .din => { s with din := m }

/-- How many bytes an input buffer is guaranteed to hold (R51). -/
def State.extent (s : State) : InBuf → Nat
  | .key => 255
  | .nonce => 255
  | .iv => 255
  | .din => s.maxLen

/-- How many bytes `DOUT` is guaranteed to hold (R51). -/
def State.doutExtent (s : State) : Nat := max 64 (8 * ceilDiv s.maxLen 8)

/-! ### Starting and ending a command -/

/-- `START` accepted by an idle engine: it becomes busy and the last outcome is forgotten in `STATUS`;
nothing else changes (R34, R244). It is also the return from a failure: there is no other. -/
def State.start (s : State) : State := { s with phase := .busy, status := statusRunning }

/-- The failure outcome of a command, the engine's one exception entry: the kind in `STATUS`, no output,
idle again, nothing else touched (R243). -/
def State.raise (s : State) (e : ErrKind) : State :=
  { s with phase := .idle, status := statusFailure e, olen := 0, dout := [] }

/-- The success outcome of a command: `DOUT[0 .. OLEN-1]` is the result and holds nothing else, and the
working registers are left as the operation's rule writes them (R28, R63, U7). -/
def State.succeed (s : State) (out : List Byte) (w : Work) : State :=
  { s with
    phase := .idle
    status := statusSuccess
    olen := out.length
    dout := Memory.writeBytes [] 0 out
    work := w }

/-! ### Validation and operands -/

/-- The error kind that a rejected command word stands for (R92, R93). -/
def decodeErrorKind : DecodeError → ErrKind
  | .reservedBits => .illegalCommand
  | .reservedAlg => .illegalCommand
  | .reservedFn => .illegalCommand
  | .reservedRnd => .illegalCommand
  | .unknownMode => .unsupportedMode

/-- The end of a command whose word selects no operation. A message command with `LEN > MAX_LEN` is
illegal before its mode is looked at (R92 steps 5 and 6, R241 steps 1 and 2). -/
def State.rejectCommand (s : State) (e : DecodeError) : State :=
  match e with
  | .unknownMode =>
    if s.maxLen < s.len then s.raise .illegalCommand else s.raise (decodeErrorKind .unknownMode)
  | .reservedBits => s.raise (decodeErrorKind .reservedBits)
  | .reservedAlg => s.raise (decodeErrorKind .reservedAlg)
  | .reservedFn => s.raise (decodeErrorKind .reservedFn)
  | .reservedRnd => s.raise (decodeErrorKind .reservedRnd)

/-- The kind of the first check that is violated, in the order given (R241). -/
def firstFailure : List (Bool × ErrKind) → Option ErrKind
  | [] => none
  | (violated, e) :: rest => if violated then some e else firstFailure rest

/-- Validation, then the operation: a violated check ends the command with its kind before anything is
computed (R230, R241, R242). -/
def State.checked (s : State) (checks : List (Bool × ErrKind)) (body : Unit → StepResult) :
    StepResult :=
  match firstFailure checks with
  | some e => .next (s.raise e)
  | none => body ()

/-- The operand `BUF[0 .. n-1]`. A byte that nothing has written since reset has no value, and the command
no meaning (R39, R272, U9). -/
def State.reading (s : State) (b : InBuf) (n : Nat) (body : List Byte → StepResult) : StepResult :=
  match Memory.readBytes (s.buf b) 0 n with
  | some bs => body bs
  | none => .refused (.unwrittenByte b)

/-- `LEN > MAX_LEN`, illegal for every operation that reads `LEN` (R14, R239; notes/assumptions/25.md). -/
def State.inputTooLong (s : State) : Bool × ErrKind := (decide (s.maxLen < s.len), .illegalCommand)

/-- The checks on key and nonce of an ARX operation that takes the nonce length `nonceLen`
(R232, R233, R236, R241 steps 3 to 5). -/
def State.arxChecks (s : State) (keyOk np : Bool) (nonceLen : BitVec 8) : List (Bool × ErrKind) :=
  [(!keyOk, .invalidKeyLength), (!np, .missingNonce), (s.nlen != nonceLen, .invalidNonceLength)]

/-- The key lengths of `RFC` (R9, R232). -/
def State.rfcKeyOk (s : State) : Bool := s.klen == 32
/-- The key lengths of `EST` (R9, R232). -/
def State.estKeyOk (s : State) : Bool := s.klen == 16 || s.klen == 32

/-- The checks of a single-block Feistel operation (R239, R14, R232). `LEN` is held against `MAX_LEN` too, as R14
asks of every command (DEDUCED, notes/assumptions/25.md). -/
def State.blockChecks (s : State) : List (Bool × ErrKind) :=
  [(decide (s.len ≠ 8), .illegalCommand), s.inputTooLong, (s.klen != 16, .invalidKeyLength)]

/-- The checks of an independent-mode operation (R207). -/
def State.indChecks (s : State) : List (Bool × ErrKind) :=
  [s.inputTooLong, (s.klen != 16, .invalidKeyLength)]

/-- The checks of a chained-mode operation (R207, R234, R235). -/
def State.chnChecks (s : State) (ivp : Bool) : List (Bool × ErrKind) :=
  [s.inputTooLong, (s.klen != 16, .invalidKeyLength), (!ivp, .missingIV),
    (s.ivlen != 8, .invalidIvLength)]

/-! ### The host -/

/-- The command word that a started command runs (R70, R80). -/
def State.fetch (s : State) : BitVec 32 := s.cmd

/-- One write by the host; a write past the guaranteed extent of a buffer faults (R21 to R26, R51). -/
def State.hostWrite (s : State) : HostWrite → StepResult
  | .cmd v => .next { s with cmd := v }
  | .klen n => .next { s with klen := n }
  | .nlen n => .next { s with nlen := n }
  | .ivlen n => .next { s with ivlen := n }
  | .ctr v => .next { s with ctr := v }
  | .len n => .next { s with len := n }
  | .bytes b off bs =>
    if off + bs.length ≤ s.extent b then
      .next (s.setBuf b (Memory.writeBytes (s.buf b) off bs))
    else .fault (.outsideBuffer b)

/-- Reset, whether idle or busy: a running command is abandoned (R270, R271). The host's own pending
actions and the engine's `MAX_LEN` are no state of the engine that reset could change. -/
def State.resetEngine (s : State) : State :=
  { State.reset with maxLen := s.maxLen, script := s.script }

/-- What a host action does. While busy a write is not defined (U8, refused) and a second `START` has no
effect (U10); a wait changes nothing. -/
def State.hostAct (s : State) : HostAction → StepResult
  | .write w =>
    match s.phase with
    | .idle => s.hostWrite w
    | .busy => .refused .writeWhileBusy
  | .start =>
    match s.phase with
    | .idle => .next s.start
    | .busy => .next s
  | .wait => .next s
  | .reset => .next s.resetEngine

/-- `DOUT` as a host may read it: it holds a value only after a success, and only below `OLEN` (R28, U7). -/
def State.visibleDout (s : State) : Memory :=
  if statusTag s.status = 1 then s.dout.filter (fun c => decide (c.1 < s.olen)) else []

/-- What a host can read (R37). -/
def State.hostView (s : State) : HostView where
  cmd := s.cmd
  klen := s.klen
  key := s.key
  nlen := s.nlen
  nonce := s.nonce
  ivlen := s.ivlen
  iv := s.iv
  ctr := s.ctr
  len := s.len
  din := s.din
  status := s.status
  olen := s.olen
  dout := s.visibleDout

end Sys2Proof.Machine
end

