-- ==== Sys2Proof/Machine/Params.lean ====
section
/-! DEFINITION. The values of the algorithm parameters, each ARX cipher's in ONE record (R36, U15), and the
Feistel constants (R171). The ARX values are the spec's general knowledge (G2 to G9), decided in D7, D8. -/

namespace Sys2Proof.Machine

/-- The parameters of `RFC`: R110 (constants), R111 (layout), R112 (rotations), R113 and R114 (quads).
`RFC` takes only 32-byte keys; `const16` is not used. -/
def rfcParams : ArxParams where
  const32 := #v[0x61707865, 0x3320646e, 0x79622d32, 0x6b206574]
  const16 := #v[0x61707865, 0x3320646e, 0x79622d32, 0x6b206574]
  layout := #v[.const 0, .const 1, .const 2, .const 3,
               .key 0, .key 1, .key 2, .key 3,
               .key 4, .key 5, .key 6, .key 7,
               .ctr, .nonce 0, .nonce 1, .nonce 2]
  rot := #v[16, 12, 8, 7]
  pass1 := [⟨0, 4, 8, 12⟩, ⟨1, 5, 9, 13⟩, ⟨2, 6, 10, 14⟩, ⟨3, 7, 11, 15⟩]
  pass2 := [⟨0, 5, 10, 15⟩, ⟨1, 6, 11, 12⟩, ⟨2, 7, 8, 13⟩, ⟨3, 4, 9, 14⟩]

/-- The parameters of `EST`: R140 (constants), R141 (layout, slot 9 always 0), R142 (rotations),
R143 (columns) and R144 (rows). -/
def estParams : ArxParams where
  const32 := #v[0x61707865, 0x3320646e, 0x79622d32, 0x6b206574]
  const16 := #v[0x61707865, 0x3120646e, 0x79622d36, 0x6b206574]
  layout := #v[.const 0, .key 0, .key 1, .key 2,
               .key 3, .const 1, .nonce 0, .nonce 1,
               .ctr, .zero, .const 2, .key 4,
               .key 5, .key 6, .key 7, .const 3]
  rot := #v[7, 9, 13, 18]
  pass1 := [⟨0, 4, 8, 12⟩, ⟨5, 9, 13, 1⟩, ⟨10, 14, 2, 6⟩, ⟨15, 3, 7, 11⟩]
  pass2 := [⟨0, 1, 2, 3⟩, ⟨5, 6, 7, 4⟩, ⟨10, 11, 8, 9⟩, ⟨15, 12, 13, 14⟩]

/-- The double rounds of `RFC`: always 10 (R115). -/
def rfcDoubleRounds : Nat := 10

/-- `DELTA` (R171). -/
def feistelDelta : Word := 0x9E3779B9
/-- `NROUNDS` (R171). -/
def feistelRounds : Nat := 32
/-- `SUM_END`, the value of `sum` that decryption starts from (R171). -/
def feistelSumEnd : Word := 0xC6EF3720

end Sys2Proof.Machine
end

