-- ==== Sys2Proof/Machine/ArxCore.lean ====
section
/-! DEFINITION. What the two ARX ciphers share: state set-up from a layout, a pass over its quads, the
double rounds, the finalization (R116, R146), the keystream loop (R118, R149), and the end of an ARX
command. The two quarter-rounds stand in ArxRfc.lean and ArxEst.lean. -/

namespace Sys2Proof.Machine

/-- The constant words for a key of the given length (R110, R140). -/
def arxConsts (p : ArxParams) (key : List Byte) : Vector Word 4 :=
  if key.length = 32 then p.const32 else p.const16

/-- The eight key words; a 16-byte key is used twice (R111, R141). -/
def arxKeyWord (key : List Byte) (j : Nat) : Word :=
  if key.length = 32 then leWordAt key j else leWordAt key (j % 4)

/-- State set-up: the original state `s[0..15]` (R111, R141). -/
def arxInit (p : ArxParams) (key nonce : List Byte) (c : Word) : Vector Word 16 :=
  Vector.ofFn fun n : Fin 16 =>
    match p.layout[n] with
    | .const j => (arxConsts p key)[j]
    | .key j => arxKeyWord key j.val
    | .nonce j => leWordAt nonce j.val
    | .ctr => c
    | .zero => 0

/-- One pass: a quarter-round on each quad in turn (R113, R114, R143, R144). -/
def arxPass (qr : Quad → Vector Word 16 → Vector Word 16) (quads : List Quad) (x : Vector Word 16) :
    Vector Word 16 :=
  quads.foldl (fun x q => qr q x) x

/-- One double round: the first pass, then the second (R115, R145). -/
def arxDoubleRound (qr : Quad → Vector Word 16 → Vector Word 16) (p : ArxParams)
    (x : Vector Word 16) : Vector Word 16 :=
  arxPass qr p.pass2 (arxPass qr p.pass1 x)

/-- Word-by-word addition of two states modulo 2^32 (R116, R146). -/
def arxAdd (x s : Vector Word 16) : Vector Word 16 := Vector.zipWith add32 x s

/-- What a keystream block function writes: the original state, the finalized working state and the
64 keystream bytes (R116, R146). -/
structure KeystreamBlock where
  s : Vector Word 16
  x : Vector Word 16
  ks : Vector Byte 64
  deriving DecidableEq, Repr

/-- A keystream block from an original state: copy, `rounds` double rounds, add the original state,
serialize little-endian (R116, R146). -/
def arxBlock (double : Vector Word 16 → Vector Word 16) (rounds : Nat) (s : Vector Word 16) :
    KeystreamBlock :=
  let x := arxAdd (double^[rounds] s) s
  { s := s, x := x, ks := leSerialize x }

/-- The keystream loop over `n` blocks: block after block is XORed onto 64 message bytes (fewer in the
last), the counter going up by 1 after each (R118, R149). -/
def keystreamXor (block : Word → KeystreamBlock) : Nat → Word → List Byte → List Byte
  | 0, _, _ => []
  | n + 1, c, d =>
    xorBytes (d.take 64) (block c).ks.toList ++ keystreamXor block n (add32 c 1) (d.drop 64)

/-- The working registers after a keystream block, with `double` double rounds run (R29 to R31, R34). -/
def Work.afterBlock (w : Work) (b : KeystreamBlock) (double : Nat) : Work :=
  { w with s := b.s, x := b.x, ks := b.ks, r := double }

/-- The end of a keystream-block command: `ctr` was loaded from `CTR` (R30, R117, R148). -/
def State.emitBlock (s : State) (b : KeystreamBlock) (double : Nat) : StepResult :=
  .next (s.succeed b.ks.toList ({ s.work with ctr := s.ctr }.afterBlock b double))

/-- The working registers after a keystream XOR over `n` blocks: what the last block left, and the
counter and the block index each advanced past it (R30, R34, notes/assumptions/4.md). -/
def Work.afterXor (w : Work) (block : Word → KeystreamBlock) (n double : Nat) : Work :=
  match n with
  | 0 => { w with ctr := 0, i := 0 }
  | m + 1 =>
    { w with ctr := BitVec.ofNat 32 n, i := n }.afterBlock (block (BitVec.ofNat 32 m)) double

/-- A keystream XOR command after validation: its counter starts at 0 (R118, R149). -/
def State.runXor (s : State) (block : Word → KeystreamBlock) (double : Nat) (d : List Byte) :
    StepResult :=
  let n := ceilDiv d.length 64
  .next (s.succeed (keystreamXor block n 0 d) (s.work.afterXor block n double))

end Sys2Proof.Machine
end

