-- ==== Sys2Proof/Machine/ArxEst.lean ====
section
/-! DEFINITION. The eSTREAM-style cipher and its operations `EST.BLK` and `EST.XOR`
(spec/41_arx_estream.md). -/

namespace Sys2Proof.Machine

/-- The quarter-round `QR_EST`: four steps of add, rotate, XOR (R142; the order is C3's). -/
def qrEst (q : Quad) (x : Vector Word 16) : Vector Word 16 :=
  let x := x.set q.b (x[q.b] ^^^ rotl32 (add32 x[q.a] x[q.d]) estParams.rot[0])
  let x := x.set q.c (x[q.c] ^^^ rotl32 (add32 x[q.b] x[q.a]) estParams.rot[1])
  let x := x.set q.d (x[q.d] ^^^ rotl32 (add32 x[q.c] x[q.b]) estParams.rot[2])
  x.set q.a (x[q.a] ^^^ rotl32 (add32 x[q.d] x[q.c]) estParams.rot[3])

/-- `EST_BLOCK(key, nonce, c, R)`: `R` rounds are `R/2` double rounds (R145, R146). -/
def estBlock (key nonce : List Byte) (rounds : Nat) (c : Word) : KeystreamBlock :=
  arxBlock (arxDoubleRound qrEst estParams) (rounds / 2) (arxInit estParams key nonce c)

/-- `EST.BLK`: one keystream block at the counter `CTR` (R148). -/
def execEstBlk (_dir : Bool) (_mode rnd : BitVec 2) (_ivp np : Bool) (s : State) : StepResult :=
  match estRounds rnd with
  | none => .next (s.raise .illegalCommand)
  | some rounds =>
    s.checked (s.arxChecks s.estKeyOk np 8) fun _ =>
    s.reading .key s.klen.toNat fun key =>
    s.reading .nonce 8 fun nonce =>
    s.emitBlock (estBlock key nonce rounds s.ctr) (rounds / 2)

/-- `EST.XOR`: the message XORed with the keystream from counter 0, in either direction (R149). -/
def execEstXor (_dir : Bool) (_mode rnd : BitVec 2) (_ivp np : Bool) (s : State) : StepResult :=
  match estRounds rnd with
  | none => .next (s.raise .illegalCommand)
  | some rounds =>
    s.checked (s.inputTooLong :: s.arxChecks s.estKeyOk np 8) fun _ =>
    s.reading .key s.klen.toNat fun key =>
    s.reading .nonce 8 fun nonce =>
    s.reading .din s.len fun d =>
    s.runXor (estBlock key nonce rounds) (rounds / 2) d

end Sys2Proof.Machine
end

