-- ==== Sys2Proof/Machine/ArxRfc.lean ====
section
/-! DEFINITION. The RFC-8439-style cipher and its operations `RFC.BLK` and `RFC.XOR`
(spec/40_arx_rfc.md). -/

namespace Sys2Proof.Machine

/-- The quarter-round `QR_RFC`: four steps of add, XOR, rotate (R112). -/
def qrRfc (q : Quad) (x : Vector Word 16) : Vector Word 16 :=
  let x := x.set q.a (add32 x[q.a] x[q.b])
  let x := x.set q.d (rotl32 (x[q.d] ^^^ x[q.a]) rfcParams.rot[0])
  let x := x.set q.c (add32 x[q.c] x[q.d])
  let x := x.set q.b (rotl32 (x[q.b] ^^^ x[q.c]) rfcParams.rot[1])
  let x := x.set q.a (add32 x[q.a] x[q.b])
  let x := x.set q.d (rotl32 (x[q.d] ^^^ x[q.a]) rfcParams.rot[2])
  let x := x.set q.c (add32 x[q.c] x[q.d])
  x.set q.b (rotl32 (x[q.b] ^^^ x[q.c]) rfcParams.rot[3])

/-- `RFC_BLOCK(key, nonce, c)` (R116). -/
def rfcBlock (key nonce : List Byte) (c : Word) : KeystreamBlock :=
  arxBlock (arxDoubleRound qrRfc rfcParams) rfcDoubleRounds (arxInit rfcParams key nonce c)

/-- `RFC.BLK`: one keystream block at the counter `CTR` (R117). -/
def execRfcBlk (_dir : Bool) (_mode _rnd : BitVec 2) (_ivp np : Bool) (s : State) : StepResult :=
  s.checked (s.arxChecks s.rfcKeyOk np 12) fun _ =>
  s.reading .key 32 fun key =>
  s.reading .nonce 12 fun nonce =>
  s.emitBlock (rfcBlock key nonce s.ctr) rfcDoubleRounds

/-- `RFC.XOR`: the message XORed with the keystream from counter 0, in either direction (R118, R119). -/
def execRfcXor (_dir : Bool) (_mode _rnd : BitVec 2) (_ivp np : Bool) (s : State) : StepResult :=
  s.checked (s.inputTooLong :: s.arxChecks s.rfcKeyOk np 12) fun _ =>
  s.reading .key 32 fun key =>
  s.reading .nonce 12 fun nonce =>
  s.reading .din s.len fun d =>
  s.runXor (rfcBlock key nonce) rfcDoubleRounds d

end Sys2Proof.Machine
end

