-- ==== Sys2Proof/Machine/Feistel.lean ====
section
/-! DEFINITION. The Feistel cores, algorithm A and algorithm B, and the single-block operations
(spec/42_feistel.md). -/

namespace Sys2Proof.Machine

/-- The two halves of the block and the running sum (R32). -/
structure Halves where
  v0 : Word
  v1 : Word
  sum : Word
  deriving DecidableEq, Repr

/-- Algorithm A's mix of the other half `v` with the sum and two key words (R173). -/
def mixA (v sum ka kb : Word) : Word :=
  add32 (shl32 v 4) ka ^^^ add32 v sum ^^^ add32 (shr32 v 5) kb

/-- One iteration of `FA_ENC_W` (R173). -/
def faEncIter (k : Vector Word 4) (h : Halves) : Halves :=
  let sum := add32 h.sum feistelDelta
  let v0 := add32 h.v0 (mixA h.v1 sum k[0] k[1])
  let v1 := add32 h.v1 (mixA v0 sum k[2] k[3])
  ⟨v0, v1, sum⟩

/-- One iteration of `FA_DEC_W` (R174). -/
def faDecIter (k : Vector Word 4) (h : Halves) : Halves :=
  let v1 := sub32 h.v1 (mixA h.v0 h.sum k[2] k[3])
  let v0 := sub32 h.v0 (mixA v1 h.sum k[0] k[1])
  ⟨v0, v1, sub32 h.sum feistelDelta⟩

/-- `sel0(sum) = sum[1:0]` (R175). -/
def sel0 (sum : Word) : Fin 4 := (sum.extractLsb' 0 2).toFin
/-- `sel1(sum) = shr32(sum, 11)[1:0]` (R175). -/
def sel1 (sum : Word) : Fin 4 := ((shr32 sum 11).extractLsb' 0 2).toFin

/-- Algorithm B's mix of the other half `v` with the sum and the selected key word (R176). -/
def mixB (v sum kw : Word) : Word :=
  add32 (shl32 v 4 ^^^ shr32 v 5) v ^^^ add32 sum kw

/-- One iteration of `FB_ENC_W`: `v0` uses the old sum, `v1` the new one (R176). -/
def fbEncIter (k : Vector Word 4) (h : Halves) : Halves :=
  let v0 := add32 h.v0 (mixB h.v1 h.sum k[sel0 h.sum])
  let sum := add32 h.sum feistelDelta
  let v1 := add32 h.v1 (mixB v0 sum k[sel1 sum])
  ⟨v0, v1, sum⟩

/-- One iteration of `FB_DEC_W` (R177). -/
def fbDecIter (k : Vector Word 4) (h : Halves) : Halves :=
  let v1 := sub32 h.v1 (mixB h.v0 h.sum k[sel1 h.sum])
  let sum := sub32 h.sum feistelDelta
  let v0 := sub32 h.v0 (mixB v1 sum k[sel0 sum])
  ⟨v0, v1, sum⟩

/-- The block split of `FEISTEL_LOAD`, big-endian, with the sum the loop starts from (R56, R170). -/
def loadHalves (b : Block) (sum : Word) : Halves :=
  ⟨be32 b[0] b[1] b[2] b[3], be32 b[4] b[5] b[6] b[7], sum⟩

/-- `FEISTEL_STORE()` (R56, R170). -/
def storeHalves (h : Halves) : Block := beBytes32 h.v0 ++ beBytes32 h.v1

/-- The halves after the 32 iterations of `FA_ENC_W` on a block (R173). -/
def faEncHalves (k : Vector Word 4) (b : Block) : Halves :=
  (faEncIter k)^[feistelRounds] (loadHalves b 0)
/-- The halves after the 32 iterations of `FA_DEC_W` on a block (R174). -/
def faDecHalves (k : Vector Word 4) (b : Block) : Halves :=
  (faDecIter k)^[feistelRounds] (loadHalves b feistelSumEnd)
/-- The halves after the 32 iterations of `FB_ENC_W` on a block (R176). -/
def fbEncHalves (k : Vector Word 4) (b : Block) : Halves :=
  (fbEncIter k)^[feistelRounds] (loadHalves b 0)
/-- The halves after the 32 iterations of `FB_DEC_W` on a block (R177). -/
def fbDecHalves (k : Vector Word 4) (b : Block) : Halves :=
  (fbDecIter k)^[feistelRounds] (loadHalves b feistelSumEnd)

/-- The block function `E_A(key, ·)` (R179). -/
def encA (k : Vector Word 4) (b : Block) : Block := storeHalves (faEncHalves k b)
/-- The block function `D_A(key, ·)` (R179). -/
def decA (k : Vector Word 4) (b : Block) : Block := storeHalves (faDecHalves k b)
/-- The block function `E_B(key, ·)` (R179). -/
def encB (k : Vector Word 4) (b : Block) : Block := storeHalves (fbEncHalves k b)
/-- The block function `D_B(key, ·)` (R179). -/
def decB (k : Vector Word 4) (b : Block) : Block := storeHalves (fbDecHalves k b)

/-- The Feistel registers after one block transform under the key words `k` (R32, R34). -/
def Work.afterHalves (w : Work) (k : Vector Word 4) (h : Halves) : Work :=
  { w with v0 := h.v0, v1 := h.v1, sum := h.sum, k := k, r := feistelRounds }

/-- A single-block command after validation: read the key and the block, run the loop, store the
halves (R173, R174, R176, R177). -/
def State.runBlock (s : State) (halves : Vector Word 4 → Block → Halves) : StepResult :=
  s.reading .key 16 fun key =>
  s.reading .din 8 fun d =>
  let k := feistelKeyWords key
  let h := halves k (padBlock d)
  .next (s.succeed (storeHalves h).toList (s.work.afterHalves k h))

/-- `FA.ENC` (R173). -/
def execFaEnc (_mode _rnd : BitVec 2) (_ivp _np : Bool) (s : State) : StepResult :=
  s.checked s.blockChecks fun _ => s.runBlock faEncHalves

/-- `FA.DEC` (R174). -/
def execFaDec (_mode _rnd : BitVec 2) (_ivp _np : Bool) (s : State) : StepResult :=
  s.checked s.blockChecks fun _ => s.runBlock faDecHalves

/-- `FB.ENC` (R176). -/
def execFbEnc (_mode _rnd : BitVec 2) (_ivp _np : Bool) (s : State) : StepResult :=
  s.checked s.blockChecks fun _ => s.runBlock fbEncHalves

/-- `FB.DEC` (R177). -/
def execFbDec (_mode _rnd : BitVec 2) (_ivp _np : Bool) (s : State) : StepResult :=
  s.checked s.blockChecks fun _ => s.runBlock fbDecHalves

end Sys2Proof.Machine
end

