-- ==== Sys2Proof/Machine/BlockModes.lean ====
section
/-! DEFINITION. The Block-Mode Wrapper: the generic constructions over a block function (R200 to R207) and
the eight operations (R208 to R215) of spec/43_block_modes.md. -/

namespace Sys2Proof.Machine

/-- `IND_ENC` and `IND_DEC` on the split input: the block function on each block (R202, R203). -/
def indBlocks (f : Block → Block) (bs : List Block) : List Block := bs.map f

/-- `CHN_ENC` on the split input: each block is XORed with the previous ciphertext block, then
transformed (R204). -/
def chnEncBlocks (e : Block → Block) : Block → List Block → List Block
  | _, [] => []
  | prev, b :: bs =>
    let c := e (xorBlock b prev)
    c :: chnEncBlocks e c bs

/-- The blocks that enter the block function in `CHN_ENC`, in order (R33, R204; P2 calls them `blk`). -/
def chnEncInputs (e : Block → Block) : Block → List Block → List Block
  | _, [] => []
  | prev, b :: bs =>
    let x := xorBlock b prev
    x :: chnEncInputs e (e x) bs

/-- `CHN_DEC` on the split input: each block is transformed, then XORed with the previous ciphertext
block as split (R205). -/
def chnDecBlocks (d : Block → Block) : Block → List Block → List Block
  | _, [] => []
  | prev, b :: bs => xorBlock (d b) prev :: chnDecBlocks d b bs

/-- The working registers after a block-mode command over `n` blocks: the key words (loaded once, R201),
the block index advanced past the last block, `prev`, and what the last transformed block left
(R32 to R34, notes/assumptions/4.md). -/
def Work.afterBlocks (w : Work) (k : Vector Word 4) (halves : Block → Halves) (n : Nat)
    (last : Option Block) (prev : Block) : Work :=
  match last with
  | none => { w with k := k, i := n, prev := prev }
  | some b => { w with i := n, prev := prev, blk := b }.afterHalves k (halves b)

/-- An independent-mode command after validation (R202, R203, R208). -/
def State.runInd (s : State) (halves : Vector Word 4 → Block → Halves) : StepResult :=
  s.reading .key 16 fun key =>
  s.reading .din s.len fun d =>
  let k := feistelKeyWords key
  let bs := split8 d
  .next (s.succeed (joinBlocks (indBlocks (fun b => storeHalves (halves k b)) bs))
    (s.work.afterBlocks k (halves k) bs.length bs.getLast? s.work.prev))

/-- A chained encryption after validation (R204, R210). -/
def State.runChnEnc (s : State) (halves : Vector Word 4 → Block → Halves) : StepResult :=
  s.reading .key 16 fun key =>
  s.reading .iv 8 fun iv =>
  s.reading .din s.len fun d =>
  let k := feistelKeyWords key
  let bs := split8 d
  let e := fun b => storeHalves (halves k b)
  let cs := chnEncBlocks e (padBlock iv) bs
  .next (s.succeed (joinBlocks cs)
    (s.work.afterBlocks k (halves k) bs.length (chnEncInputs e (padBlock iv) bs).getLast?
      (cs.getLast?.getD (padBlock iv))))

/-- A chained decryption after validation (R205, R211). -/
def State.runChnDec (s : State) (halves : Vector Word 4 → Block → Halves) : StepResult :=
  s.reading .key 16 fun key =>
  s.reading .iv 8 fun iv =>
  s.reading .din s.len fun d =>
  let k := feistelKeyWords key
  let bs := split8 d
  .next (s.succeed (joinBlocks (chnDecBlocks (fun b => storeHalves (halves k b)) (padBlock iv) bs))
    (s.work.afterBlocks k (halves k) bs.length bs.getLast? (bs.getLast?.getD (padBlock iv))))

/-- `FA.IND.ENC` (R208). -/
def execFaIndEnc (_rnd : BitVec 2) (_ivp _np : Bool) (s : State) : StepResult :=
  s.checked s.indChecks fun _ => s.runInd faEncHalves

/-- `FA.IND.DEC` (R209). -/
def execFaIndDec (_rnd : BitVec 2) (_ivp _np : Bool) (s : State) : StepResult :=
  s.checked s.indChecks fun _ => s.runInd faDecHalves

/-- `FA.CHN.ENC` (R210). -/
def execFaChnEnc (_rnd : BitVec 2) (ivp _np : Bool) (s : State) : StepResult :=
  s.checked (s.chnChecks ivp) fun _ => s.runChnEnc faEncHalves

/-- `FA.CHN.DEC` (R211). -/
def execFaChnDec (_rnd : BitVec 2) (ivp _np : Bool) (s : State) : StepResult :=
  s.checked (s.chnChecks ivp) fun _ => s.runChnDec faDecHalves

/-- `FB.IND.ENC` (R212). -/
def execFbIndEnc (_rnd : BitVec 2) (_ivp _np : Bool) (s : State) : StepResult :=
  s.checked s.indChecks fun _ => s.runInd fbEncHalves

/-- `FB.IND.DEC` (R213). -/
def execFbIndDec (_rnd : BitVec 2) (_ivp _np : Bool) (s : State) : StepResult :=
  s.checked s.indChecks fun _ => s.runInd fbDecHalves

/-- `FB.CHN.ENC` (R214). -/
def execFbChnEnc (_rnd : BitVec 2) (ivp _np : Bool) (s : State) : StepResult :=
  s.checked (s.chnChecks ivp) fun _ => s.runChnEnc fbEncHalves

/-- `FB.CHN.DEC` (R215). -/
def execFbChnDec (_rnd : BitVec 2) (ivp _np : Bool) (s : State) : StepResult :=
  s.checked (s.chnChecks ivp) fun _ => s.runChnDec fbDecHalves

end Sys2Proof.Machine
end

