-- ==== Sys2Proof/Machine/Dispatch.lean ====
section
/-! DEFINITION. One arm per operation: the meaning it calls. -/

namespace Sys2Proof.Machine

/-- What a started command does: its operation's rule, as one indivisible transition (R20, R63). -/
def exec (i : Instr) (s : State) : Host.Outcome State Fault Refusal :=
  match i with
  | .rfcBlk dir mode rnd ivp np => Sys2Proof.Machine.execRfcBlk dir mode rnd ivp np s
  | .rfcXor dir mode rnd ivp np => Sys2Proof.Machine.execRfcXor dir mode rnd ivp np s
  | .estBlk dir mode rnd ivp np => Sys2Proof.Machine.execEstBlk dir mode rnd ivp np s
  | .estXor dir mode rnd ivp np => Sys2Proof.Machine.execEstXor dir mode rnd ivp np s
  | .faEnc mode rnd ivp np => Sys2Proof.Machine.execFaEnc mode rnd ivp np s
  | .faDec mode rnd ivp np => Sys2Proof.Machine.execFaDec mode rnd ivp np s
  | .fbEnc mode rnd ivp np => Sys2Proof.Machine.execFbEnc mode rnd ivp np s
  | .fbDec mode rnd ivp np => Sys2Proof.Machine.execFbDec mode rnd ivp np s
  | .faIndEnc rnd ivp np => Sys2Proof.Machine.execFaIndEnc rnd ivp np s
  | .faIndDec rnd ivp np => Sys2Proof.Machine.execFaIndDec rnd ivp np s
  | .faChnEnc rnd ivp np => Sys2Proof.Machine.execFaChnEnc rnd ivp np s
  | .faChnDec rnd ivp np => Sys2Proof.Machine.execFaChnDec rnd ivp np s
  | .fbIndEnc rnd ivp np => Sys2Proof.Machine.execFbIndEnc rnd ivp np s
  | .fbIndDec rnd ivp np => Sys2Proof.Machine.execFbIndDec rnd ivp np s
  | .fbChnEnc rnd ivp np => Sys2Proof.Machine.execFbChnEnc rnd ivp np s
  | .fbChnDec rnd ivp np => Sys2Proof.Machine.execFbChnDec rnd ivp np s

end Sys2Proof.Machine
end

