-- ==== Sys2Proof/Machine/Engine.lean ====
section
/-! DEFINITION. What a step consists of: a running command from its word to its completion (R20, R34), and
whose turn it is, the host's or the engine's (R20, R66, notes/assumptions/9.md). -/

namespace Sys2Proof.Machine

/-- The running command as one transition: decode `CMD` and execute, or end with the decoder's error
(R20, R92). -/
def State.runCommand (s : State) : StepResult :=
  match decode s.fetch with
  | .ok i => exec i s
  | .reject e => .next (s.rejectCommand e)

/-- An idle engine with no pending host action stays as it is; a busy engine completes its command when
the host has nothing pending or waits; otherwise the host's next action happens. -/
def State.advance (s : State) : StepResult :=
  match s.script with
  | [] =>
    match s.phase with
    | .idle => .next s
    | .busy => s.runCommand
  | a :: rest =>
    if s.phase = .busy ∧ a = .wait then s.runCommand
    else State.hostAct { s with script := rest } a

/-- The state in which the command word `w` has just been started and the host waits for it, everything
else as it was (notes/assumptions/8.md). -/
def State.startedWith (s : State) (w : BitVec 32) : State :=
  { s with
    cmd := w
    phase := .busy
    status := statusRunning
    script := .wait :: s.script }

end Sys2Proof.Machine
end

