-- ==== Sys2Proof/Machine/Step.lean ====
section
/-! DEFINITION. One step of the machine, and the placing of a command word where the next step runs it. -/

namespace Sys2Proof.Machine

/-- One step: the host's next action, or the running command to its completion (R20, R34, R66). -/
def step (s : State) : Host.Outcome State Fault Refusal := s.advance

/-- The state whose next step decodes and runs the command word `w`: `CMD` holds it, it has been started
and the host waits for it. A command word has one length, so the number of bits says nothing. -/
def State.withFetchWord (s : State) (_nbits w : Nat) : State := s.startedWith (BitVec.ofNat 32 w)

end Sys2Proof.Machine
end

