-- ==== Sys2Proof/Safety.lean ====
section
/-! DEFINITION. The terms that claims are stated in: what a buffer holds, when an engine runs its command on
the next step, how a command ends, what a command leaves alone, the validation order of R241 read off the
command word, and the invariants of the state. -/

namespace Sys2Proof.Machine

/-- The buffer holds these bytes from offset 0 on. -/
def Memory.Holds (m : Memory) (bs : List Byte) : Prop :=
  ∀ j, j < bs.length → Memory.read m j = bs[j]?

/-- A command is running and the host lets it finish: the next step is its completion. -/
def State.Ready (s : State) : Prop :=
  s.phase = .busy ∧ (s.script = [] ∨ s.script.head? = some .wait)

/-- The command registers, the input buffers, `MAX_LEN` and the host's pending actions are the same. -/
def SameCommand (s t : State) : Prop :=
  t.cmd = s.cmd ∧ t.klen = s.klen ∧ t.key = s.key ∧ t.nlen = s.nlen ∧ t.nonce = s.nonce ∧
    t.ivlen = s.ivlen ∧ t.iv = s.iv ∧ t.ctr = s.ctr ∧ t.len = s.len ∧ t.din = s.din ∧
    t.maxLen = s.maxLen ∧ t.script = s.script

/-- The working registers of the Feistel and block-mode operations are the same (R32, R33). -/
def SameFeistelWork (s t : State) : Prop :=
  t.work.v0 = s.work.v0 ∧ t.work.v1 = s.work.v1 ∧ t.work.sum = s.work.sum ∧ t.work.k = s.work.k ∧
    t.work.prev = s.work.prev ∧ t.work.blk = s.work.blk

/-- The working registers of the ARX operations are the same (R29 to R31). -/
def SameArxWork (s t : State) : Prop :=
  t.work.s = s.work.s ∧ t.work.x = s.work.x ∧ t.work.ctr = s.work.ctr ∧ t.work.ks = s.work.ks

/-- A success with `n` output bytes, byte `a` of which is `out a`; `DOUT` holds nothing else
(R27, R28, U7). -/
def Succeeded (t : State) (n : Nat) (out : Nat → Byte) : Prop :=
  t.phase = .idle ∧ t.status = 0x02#8 ∧ t.olen = n ∧
    ∀ a, Memory.read t.dout a = if a < n then some (out a) else none

/-- A failure of kind `e`: `STATUS` is `0x04 + 0x10 * ERR`, no output, nothing else changed (R243). -/
def FailedFrom (s t : State) (e : ErrKind) : Prop :=
  t.phase = .idle ∧ t.status.toNat = 0x04 + 0x10 * (errCode e).toNat ∧ t.olen = 0 ∧
    (∀ a, Memory.read t.dout a = none) ∧ SameCommand s t ∧ t.work = s.work

/-- Block `i` of a byte sequence, the missing bytes of a short last block zero (R59). -/
def blockAt (d : List Byte) (i : Nat) : Block := padBlock (d.drop (8 * i))

/-- Byte `a` of the keystream whose block `a / 64` is `block (a / 64)` (R58). -/
def keystreamByte (block : Word → KeystreamBlock) (a : Nat) : Byte :=
  (block (BitVec.ofNat 32 (a / 64))).ks.toList.getD (a % 64) 0

/-- Byte `a` of a sequence of blocks. -/
def blocksByte (c : Nat → Block) (a : Nat) : Byte := (c (a / 8)).toList.getD (a % 8) 0

/-- The command word is that of an ARX operation (`ALG` 0 or 1). -/
def wordIsArx (w : BitVec 32) : Bool := (fieldAlg w).toNat < 2
/-- The command word is that of a chained-mode operation. -/
def wordIsChained (w : BitVec 32) : Bool :=
  2 ≤ (fieldAlg w).toNat && fieldFn w == 1 && fieldMode w == 1

/-- The kind of the first check of R241 that fails, read off the command word and the length registers
in the words of R241; `none` when no check applies. Its first check holds the `LEN` of every operation that
reads it against `MAX_LEN`, as R14 asks (notes/assumptions/25.md). -/
def State.firstError (s : State) : Option ErrKind :=
  let alg := (fieldAlg s.cmd).toNat
  let fn := (fieldFn s.cmd).toNat
  if fieldHigh s.cmd ≠ 0 ∨ fieldBit7 s.cmd = true ∨ 3 < alg ∨ 1 < fn ∨
      (alg = 1 ∧ (fieldRnd s.cmd).toNat = 3) ∨ (2 ≤ alg ∧ fn = 0 ∧ s.len ≠ 8) ∨
      ((2 ≤ alg ∨ fn = 1) ∧ s.maxLen < s.len) then some .illegalCommand
  else if 2 ≤ alg ∧ fn = 1 ∧ 2 ≤ (fieldMode s.cmd).toNat then some .unsupportedMode
  else if (alg = 0 ∧ s.klen ≠ 32) ∨ (alg = 1 ∧ s.klen ≠ 16 ∧ s.klen ≠ 32) ∨
      (2 ≤ alg ∧ s.klen ≠ 16) then some .invalidKeyLength
  else if wordIsArx s.cmd = true ∧ fieldNp s.cmd = false then some .missingNonce
  else if wordIsChained s.cmd = true ∧ fieldIvp s.cmd = false then some .missingIV
  else if (alg = 0 ∧ s.nlen ≠ 12) ∨ (alg = 1 ∧ s.nlen ≠ 8) then some .invalidNonceLength
  else if wordIsChained s.cmd = true ∧ s.ivlen ≠ 8 then some .invalidIvLength
  else none

/-- The host has written every byte that the command reads (R272). -/
def State.OperandsWritten (s : State) : Prop :=
  (∀ j, j < s.klen.toNat → (Memory.read s.key j).isSome = true) ∧
  (wordIsArx s.cmd = true → ∀ j, j < s.nlen.toNat → (Memory.read s.nonce j).isSome = true) ∧
  (wordIsChained s.cmd = true → ∀ j, j < s.ivlen.toNat → (Memory.read s.iv j).isSome = true) ∧
  (wordIsArx s.cmd = false ∨ fieldFn s.cmd = 1 → ∀ j, j < s.len → (Memory.read s.din j).isSome = true)

/-- `OLEN` on success of the command (R89). -/
def State.expectedOlen (s : State) : Nat :=
  if wordIsArx s.cmd then (if fieldFn s.cmd = 0 then 64 else s.len) else 8 * ceilDiv s.len 8

/-- Apply a change of the state to a step's answer when it is a next state. -/
def mapNext (f : State → State) : StepResult → StepResult
  | .next s => .next (f s)
  | .fault r => .fault r
  | .refused r => .refused r

/-- `STATUS` is one of the words the engine leaves in it, and `STATUS.BUSY` agrees with `phase`
(R27, R231, R243, R244): kind 7 is never raised and bit 3 reads 0. -/
def State.StatusLegal (s : State) : Prop :=
  (s.phase = .busy ∧ s.status = 0x01#8) ∨
    (s.phase = .idle ∧ s.status ∈ [0x00#8, 0x02#8, 0x14#8, 0x24#8, 0x34#8, 0x44#8, 0x54#8, 0x64#8, 0xf4#8])

/-- Every buffer has the canonical form and the input buffers hold nothing past their extent (R51). -/
def State.BuffersCanonical (s : State) : Prop :=
  (∀ b, Memory.wf (s.buf b) = true ∧ ∀ a, s.extent b ≤ a → Memory.read (s.buf b) a = none) ∧
    Memory.wf s.dout = true

/-- `DOUT` holds exactly the bytes below `OLEN`, which fits its extent; an idle engine without a success
has no output; `MAX_LEN` is in its range (R14, R28, R51, R63, U7). -/
def State.OutputDescribed (s : State) : Prop :=
  s.maxLen ≤ 2 ^ 38 ∧ s.olen ≤ s.doutExtent ∧
    (∀ a, (Memory.read s.dout a).isSome = decide (a < s.olen)) ∧
    (s.phase = .idle → statusTag s.status ≠ 1 → s.olen = 0)

end Sys2Proof.Machine
end

