-- ==== Sys2Proof/Certificates/Slice0/Obligations.lean ====
section
/-! DEFINITION. The statements for the provers. Each docstring names the rule it formalises, or says that it
is the model's own choice and names the log entry. -/

open Sys2Proof Sys2Proof.Machine

/-! ### The command word -/

/-- Decoding the word of a well-formed operation gives the operation back, with every field (R81, R91). -/
def Obligations.DecodeOfEncode : Prop :=
  ∀ i : Instr, i.wellFormed = true → decode (encode i) = .ok i

/-- Every accepted word is the word of the operation it decodes to: no bit of it is dropped (R81, R91). -/
def Obligations.EncodeOfDecode : Prop :=
  ∀ (w : BitVec 32) (i : Instr), decode w = .ok i → encode i = w ∧ i.wellFormed = true

/-- R91: the `match` and `mask` of the sixteen rows; a decoded word matches its operation's row and no
other; a word that matches a row decodes to an operation of that row, unless it is an `EST` word with
`RND = 3` (R92 step 3). -/
def Obligations.DecodeSelectsMatchingRow : Prop :=
  (∀ (dir : Bool) (mode rnd : BitVec 2) (ivp np : Bool),
    let row (i : Instr) (m k : BitVec 32) : Prop := rowMatch i = m ∧ rowMask i = k
    row (.rfcBlk dir mode rnd ivp np) 0x00000000 0xFFFFC0BF ∧
    row (.rfcXor dir mode rnd ivp np) 0x00000010 0xFFFFC0BF ∧
    row (.estBlk dir mode rnd ivp np) 0x00000001 0xFFFFC0BF ∧
    row (.estXor dir mode rnd ivp np) 0x00000011 0xFFFFC0BF ∧
    row (.faEnc mode rnd ivp np) 0x00000002 0xFFFFC0FF ∧
    row (.faDec mode rnd ivp np) 0x00000042 0xFFFFC0FF ∧
    row (.fbEnc mode rnd ivp np) 0x00000003 0xFFFFC0FF ∧
    row (.fbDec mode rnd ivp np) 0x00000043 0xFFFFC0FF ∧
    row (.faIndEnc rnd ivp np) 0x00000012 0xFFFFC3FF ∧ row (.faIndDec rnd ivp np) 0x00000052 0xFFFFC3FF ∧
    row (.faChnEnc rnd ivp np) 0x00000112 0xFFFFC3FF ∧ row (.faChnDec rnd ivp np) 0x00000152 0xFFFFC3FF ∧
    row (.fbIndEnc rnd ivp np) 0x00000013 0xFFFFC3FF ∧ row (.fbIndDec rnd ivp np) 0x00000053 0xFFFFC3FF ∧
    row (.fbChnEnc rnd ivp np) 0x00000113 0xFFFFC3FF ∧ row (.fbChnDec rnd ivp np) 0x00000153 0xFFFFC3FF) ∧
  (∀ (w : BitVec 32) (i : Instr), decode w = .ok i →
    w &&& rowMask i = rowMatch i ∧
      ∀ j : Instr, w &&& rowMask j = rowMatch j → rowMatch j = rowMatch i ∧ rowMask j = rowMask i) ∧
  ∀ (w : BitVec 32) (j : Instr), w &&& rowMask j = rowMatch j →
    (∃ i, decode w = .ok i ∧ rowMatch i = rowMatch j ∧ rowMask i = rowMask j) ∨
      (decode w = .reject .reservedRnd ∧ fieldAlg w = 1 ∧ fieldRnd w = 3)

/-- R93: which words are rejected, and as what; each line of the table with the lines before it excluded
(R92 steps 1, 2, 3, 6). -/
def Obligations.ReservedWordsAreRejected : Prop :=
  ∀ w : BitVec 32,
    let high := w.toNat / 2 ^ 14 ≠ 0 ∨ w.toNat / 2 ^ 7 % 2 = 1
    let alg := w.toNat % 16
    let fn := w.toNat / 2 ^ 4 % 4
    let mode := w.toNat / 2 ^ 8 % 4
    let rnd := w.toNat / 2 ^ 10 % 4
    (decode w = .reject .reservedBits ↔ high) ∧
    (decode w = .reject .reservedAlg ↔ ¬ high ∧ 4 ≤ alg) ∧
    (decode w = .reject .reservedFn ↔ ¬ high ∧ alg < 4 ∧ 2 ≤ fn) ∧
    (decode w = .reject .reservedRnd ↔ ¬ high ∧ fn < 2 ∧ alg = 1 ∧ rnd = 3) ∧
    (decode w = .reject .unknownMode ↔ ¬ high ∧ (alg = 2 ∨ alg = 3) ∧ fn = 1 ∧ 2 ≤ mode)

/-- Words of the table of V15 (spec/95_test_vectors.md) decode to the operations it gives. -/
def Obligations.SpecWordsDecode : Prop :=
  decode 0x00002000 = .ok (.rfcBlk false 0 0 false true) ∧
  decode 0x00002050 = .ok (.rfcXor true 0 0 false true) ∧
  decode 0x00002401 = .ok (.estBlk false 0 1 false true) ∧
  decode 0x00002811 = .ok (.estXor false 0 2 false true) ∧
  decode 0x00000302 = .ok (.faEnc 3 0 false false) ∧
  decode 0x00000043 = .ok (.fbDec 0 0 false false) ∧
  decode 0x00001152 = .ok (.faChnDec 0 true false) ∧
  decode 0x00003113 = .ok (.fbChnEnc 0 true true) ∧
  decode 0x00000212 = .reject .unknownMode ∧
  decode 0x00002c01 = .reject .reservedRnd ∧
  decode 0x00004000 = .reject .reservedBits

/-- The last sentence of R95: the `CMD` word of a command line is the row's `match` value, plus
`0x400 * RND`, plus `0x1000` with an IV, plus `0x2000` with a nonce (ignored fields are 0). -/
def Obligations.CommandWordOfNotation : Prop :=
  ∀ (rnd : BitVec 2) (ivp np : Bool),
    let more := 0x400 * rnd.toNat + (if ivp = true then 0x1000 else 0) + (if np = true then 0x2000 else 0)
    (encode (.rfcBlk false 0 rnd ivp np)).toNat = 0x000 + more ∧
    (encode (.rfcXor false 0 rnd ivp np)).toNat = 0x010 + more ∧
    (encode (.estBlk false 0 rnd ivp np)).toNat = 0x001 + more ∧
    (encode (.estXor false 0 rnd ivp np)).toNat = 0x011 + more ∧
    (encode (.faEnc 0 rnd ivp np)).toNat = 0x002 + more ∧
    (encode (.faDec 0 rnd ivp np)).toNat = 0x042 + more ∧
    (encode (.fbEnc 0 rnd ivp np)).toNat = 0x003 + more ∧
    (encode (.fbDec 0 rnd ivp np)).toNat = 0x043 + more ∧
    (encode (.faIndEnc rnd ivp np)).toNat = 0x012 + more ∧
    (encode (.faIndDec rnd ivp np)).toNat = 0x052 + more ∧
    (encode (.faChnEnc rnd ivp np)).toNat = 0x112 + more ∧
    (encode (.faChnDec rnd ivp np)).toNat = 0x152 + more ∧
    (encode (.fbIndEnc rnd ivp np)).toNat = 0x013 + more ∧
    (encode (.fbIndDec rnd ivp np)).toNat = 0x053 + more ∧
    (encode (.fbChnEnc rnd ivp np)).toNat = 0x113 + more ∧
    (encode (.fbChnDec rnd ivp np)).toNat = 0x153 + more

/-! ### A step, and validation -/

/-- When a command is running and the host lets it finish, the step is `exec` of the operation that `CMD`
decodes to; and `withFetchWord` makes the very next step run the word it is given. When the host lets it
finish is the model's choice (notes/assumptions/8.md, 9.md). -/
def Obligations.StepRunsDecodedCommand : Prop :=
  (∀ (s : State) (i : Instr), s.Ready → decode s.cmd = .ok i → step s = exec i s) ∧
  ∀ (s : State) (i : Instr) (w : Nat), decode (BitVec.ofNat 32 w) = .ok i →
    step (s.withFetchWord 32 w) = exec i (s.withFetchWord 32 w)

/-- From R241 and R243: the checks are made in order and the first that fails is reported; the command ends
with the failure outcome and changes nothing else. For every command word, a word that selects no operation
among them. The fixed order is the one the spec decides (notes/assumptions/13.md); the check of `LEN` against
`MAX_LEN` is that of R14, for single-block operations too (25.md). -/
def Obligations.FirstFailingCheckIsReported : Prop :=
  ∀ (s : State) (e : ErrKind), s.Ready → s.firstError = some e →
    ∃ t, step s = .next t ∧ FailedFrom s t e

/-- From R242 and R89: a command to which no check applies succeeds, once the host has written what it
reads; its output length is the operation's, and no command register or input buffer changes. That the
operands have been written is the precondition R39 and U9 give (notes/assumptions/2.md). That `DOUT` holds
nothing else is U7 as the model takes it (12.md). That the checks hold the `LEN` of a single-block
operation against `MAX_LEN` too is its reading of R14 (25.md). -/
def Obligations.CommandWithoutFailingCheckSucceeds : Prop :=
  ∀ s : State, s.Ready → s.firstError = none → s.OperandsWritten →
    ∃ t out, step s = .next t ∧ Succeeded t s.expectedOlen out ∧ SameCommand s t

/-- From R14 and D4: a command with `LEN > MAX_LEN` fails with `IllegalCommand`, whatever else is wrong with it,
for every command word but those of `RFC.BLK` and `EST.BLK`, which do not read `LEN` (R26, U13). That R14
covers the single-block operations, which R241 does not list, is the model's reading
(notes/assumptions/25.md). -/
def Obligations.InputLongerThanMaxLenFails : Prop :=
  ∀ s : State, s.Ready → s.maxLen < s.len →
    ¬ ((fieldAlg s.cmd).toNat < 2 ∧ (fieldFn s.cmd).toNat = 0) →
    ∃ t, step s = .next t ∧ FailedFrom s t .illegalCommand

/-- From R147 and R86: `RND` 0, 1, 2 select 20, 12, 8 rounds. That `exec` of an `EST` operation with `RND = 3`
ends with `IllegalCommand`, whatever the state, is the model's choice (notes/assumptions/21.md): such a word
has already failed at decoding, and no step reaches it. -/
def Obligations.EstRoundCounts : Prop :=
  estRounds 0 = some 20 ∧ estRounds 1 = some 12 ∧ estRounds 2 = some 8 ∧
  ∀ (dir : Bool) (mode : BitVec 2) (ivp np : Bool) (s : State),
    (∃ t, exec (.estBlk dir mode 3 ivp np) s = .next t ∧ FailedFrom s t .illegalCommand) ∧
    (∃ t, exec (.estXor dir mode 3 ivp np) s = .next t ∧ FailedFrom s t .illegalCommand)

/-! ### Results of the operations, with their frames -/

/-- `RFC.BLK` (R117): the keystream block at the counter `CTR`; the working registers of the Feistel
operations, the command registers and the input buffers are unchanged. That `DOUT` holds nothing else is U7
as the model takes it (notes/assumptions/12.md); the clauses about working registers are the model's reading
of the pseudocode (4.md). -/
def Obligations.RfcBlkResult : Prop :=
  ∀ (dir : Bool) (mode rnd : BitVec 2) (ivp : Bool) (s : State) (key nonce : List Byte),
    s.klen = 32 → key.length = 32 → Memory.Holds s.key key →
    s.nlen = 12 → nonce.length = 12 → Memory.Holds s.nonce nonce →
    ∃ t, exec (.rfcBlk dir mode rnd ivp true) s = .next t ∧
      Succeeded t 64 (fun a => (rfcBlock key nonce s.ctr).ks.toList.getD a 0) ∧
      SameCommand s t ∧ SameFeistelWork s t ∧ t.work.i = s.work.i ∧ t.work.ctr = s.ctr ∧
      t.work.s = arxInit rfcParams key nonce s.ctr ∧
      t.work.x = (rfcBlock key nonce s.ctr).x ∧ t.work.ks = (rfcBlock key nonce s.ctr).ks

/-- `EST.BLK` (R148): the keystream block at the counter `CTR` with the round count that `RND` selects,
under a key of 16 or of 32 bytes; frame as for `RFC.BLK`. That `DOUT` holds nothing else is U7 as the model
takes it (notes/assumptions/12.md); the clauses about working registers are the model's reading of the
pseudocode (4.md). -/
def Obligations.EstBlkResult : Prop :=
  ∀ (dir : Bool) (mode rnd : BitVec 2) (ivp : Bool) (s : State) (key nonce : List Byte) (rounds : Nat),
    estRounds rnd = some rounds → (s.klen = 16 ∨ s.klen = 32) →
    key.length = s.klen.toNat → Memory.Holds s.key key →
    s.nlen = 8 → nonce.length = 8 → Memory.Holds s.nonce nonce →
    ∃ t, exec (.estBlk dir mode rnd ivp true) s = .next t ∧
      Succeeded t 64 (fun a => (estBlock key nonce rounds s.ctr).ks.toList.getD a 0) ∧
      SameCommand s t ∧ SameFeistelWork s t ∧ t.work.i = s.work.i ∧ t.work.ctr = s.ctr ∧
      t.work.s = arxInit estParams key nonce s.ctr ∧
      t.work.x = (estBlock key nonce rounds s.ctr).x ∧ t.work.ks = (estBlock key nonce rounds s.ctr).ks

/-- `RFC.XOR` (R118, R58): output byte `a` is input byte `a` XOR keystream byte `a`, where block `a / 64` is
produced at counter `a / 64`; the output has the input's length, in either direction; frame as for
`RFC.BLK`. That `DOUT` holds nothing else is U7 as the model takes it (notes/assumptions/12.md); the clauses
about working registers are the model's reading of the pseudocode (4.md). -/
def Obligations.RfcXorResult : Prop :=
  ∀ (dir : Bool) (mode rnd : BitVec 2) (ivp : Bool) (s : State) (key nonce d : List Byte),
    s.klen = 32 → key.length = 32 → Memory.Holds s.key key →
    s.nlen = 12 → nonce.length = 12 → Memory.Holds s.nonce nonce →
    d.length = s.len → Memory.Holds s.din d → s.len ≤ s.maxLen →
    ∃ t, exec (.rfcXor dir mode rnd ivp true) s = .next t ∧
      Succeeded t s.len (fun a => d.getD a 0 ^^^ keystreamByte (rfcBlock key nonce) a) ∧
      SameCommand s t ∧ SameFeistelWork s t

/-- `EST.XOR` (R149, R58): as `RFC.XOR`, with the `EST` keystream of the round count that `RND` selects and
a key of 16 or of 32 bytes. That `DOUT` holds nothing else is U7 as the model takes it
(notes/assumptions/12.md); the clauses about working registers are the model's reading of the pseudocode
(4.md). -/
def Obligations.EstXorResult : Prop :=
  ∀ (dir : Bool) (mode rnd : BitVec 2) (ivp : Bool) (s : State) (key nonce d : List Byte) (rounds : Nat),
    estRounds rnd = some rounds → (s.klen = 16 ∨ s.klen = 32) →
    key.length = s.klen.toNat → Memory.Holds s.key key →
    s.nlen = 8 → nonce.length = 8 → Memory.Holds s.nonce nonce →
    d.length = s.len → Memory.Holds s.din d → s.len ≤ s.maxLen →
    ∃ t, exec (.estXor dir mode rnd ivp true) s = .next t ∧
      Succeeded t s.len (fun a => d.getD a 0 ^^^ keystreamByte (estBlock key nonce rounds) a) ∧
      SameCommand s t ∧ SameFeistelWork s t

/-- `FA.ENC`, `FA.DEC`, `FB.ENC`, `FB.DEC` (R173, R174, R176, R177): the block function on the eight input
bytes; the working registers of the ARX operations and the chaining registers, the command registers and the
input buffers are unchanged. That `DOUT` holds nothing else is U7 as the model takes it
(notes/assumptions/12.md); the clauses about working registers are the model's reading of the pseudocode
(4.md). That `LEN` is held against `MAX_LEN` is the model's reading of R14 (25.md). -/
def Obligations.SingleBlockResults : Prop :=
  ∀ (mode rnd : BitVec 2) (ivp np : Bool) (s : State) (key d : List Byte),
    s.klen = 16 → key.length = 16 → Memory.Holds s.key key →
    s.len = 8 → s.len ≤ s.maxLen → d.length = 8 → Memory.Holds s.din d →
    let k := feistelKeyWords key
    let result (i : Instr) (f : Block → Block) : Prop :=
      ∃ t, exec i s = .next t ∧
        Succeeded t 8 (fun a => (f (blockAt d 0)).toList.getD a 0) ∧
        SameCommand s t ∧ SameArxWork s t ∧ t.work.k = k ∧
        t.work.prev = s.work.prev ∧ t.work.blk = s.work.blk ∧ t.work.i = s.work.i
    result (.faEnc mode rnd ivp np) (encA k) ∧ result (.faDec mode rnd ivp np) (decA k) ∧
    result (.fbEnc mode rnd ivp np) (encB k) ∧ result (.fbDec mode rnd ivp np) (decB k)

/-- `FA.IND.ENC`, `FA.IND.DEC`, `FB.IND.ENC`, `FB.IND.DEC` (R208, R209, R212, R213 with R202, R203): output
block `i` is the block function of input block `i`, zero-extended when short; the working registers of the
ARX operations, `prev`, the command registers and the input buffers are unchanged. That `DOUT` holds nothing
else is U7 as the model takes it (notes/assumptions/12.md); the clauses about working registers are the
model's reading of the pseudocode (4.md). -/
def Obligations.IndependentModeResults : Prop :=
  ∀ (rnd : BitVec 2) (ivp np : Bool) (s : State) (key d : List Byte),
    s.klen = 16 → key.length = 16 → Memory.Holds s.key key →
    d.length = s.len → Memory.Holds s.din d → s.len ≤ s.maxLen →
    let k := feistelKeyWords key
    let result (i : Instr) (f : Block → Block) : Prop :=
      ∃ t, exec i s = .next t ∧
        Succeeded t (8 * ceilDiv s.len 8) (blocksByte fun i => f (blockAt d i)) ∧
        SameCommand s t ∧ SameArxWork s t ∧ t.work.k = k ∧ t.work.prev = s.work.prev
    result (.faIndEnc rnd ivp np) (encA k) ∧ result (.faIndDec rnd ivp np) (decA k) ∧
    result (.fbIndEnc rnd ivp np) (encB k) ∧ result (.fbIndDec rnd ivp np) (decB k)

/-- `FA.CHN.ENC`, `FB.CHN.ENC` (R210, R214 with R204): ciphertext block `i` is the block function of input
block `i` XOR ciphertext block `i - 1` (the IV for the first); `prev` ends as the last ciphertext block; the
working registers of the ARX operations, the command registers and the input buffers are unchanged. That
`DOUT` holds nothing else is U7 as the model takes it (notes/assumptions/12.md); the clauses about working
registers are the model's reading of the pseudocode (4.md). -/
def Obligations.ChainedEncryptionResults : Prop :=
  ∀ (rnd : BitVec 2) (np : Bool) (s : State) (key iv d : List Byte),
    s.klen = 16 → key.length = 16 → Memory.Holds s.key key →
    s.ivlen = 8 → iv.length = 8 → Memory.Holds s.iv iv →
    d.length = s.len → Memory.Holds s.din d → s.len ≤ s.maxLen →
    let k := feistelKeyWords key
    let result (i : Instr) (e : Block → Block) : Prop :=
      ∃ (t : State) (c : Nat → Block), exec i s = .next t ∧
        (∀ i, c i = e (xorBlock (blockAt d i) (if i = 0 then blockAt iv 0 else c (i - 1)))) ∧
        Succeeded t (8 * ceilDiv s.len 8) (blocksByte c) ∧
        SameCommand s t ∧ SameArxWork s t ∧ t.work.k = k ∧
        t.work.prev = (if s.len = 0 then blockAt iv 0 else c (ceilDiv s.len 8 - 1))
    result (.faChnEnc rnd true np) (encA k) ∧ result (.fbChnEnc rnd true np) (encB k)

/-- `FA.CHN.DEC`, `FB.CHN.DEC` (R211, R215 with R205): plaintext block `i` is the inverse block function of
input block `i`, XOR input block `i - 1` (the IV for the first); frame as for the encryptions. That `DOUT`
holds nothing else is U7 as the model takes it (notes/assumptions/12.md); the clauses about working
registers are the model's reading of the pseudocode (4.md). -/
def Obligations.ChainedDecryptionResults : Prop :=
  ∀ (rnd : BitVec 2) (np : Bool) (s : State) (key iv d : List Byte),
    s.klen = 16 → key.length = 16 → Memory.Holds s.key key →
    s.ivlen = 8 → iv.length = 8 → Memory.Holds s.iv iv →
    d.length = s.len → Memory.Holds s.din d → s.len ≤ s.maxLen →
    let k := feistelKeyWords key
    let result (i : Instr) (f : Block → Block) : Prop :=
      ∃ t, exec i s = .next t ∧
        Succeeded t (8 * ceilDiv s.len 8)
          (blocksByte fun i =>
            xorBlock (f (blockAt d i)) (if i = 0 then blockAt iv 0 else blockAt d (i - 1))) ∧
        SameCommand s t ∧ SameArxWork s t ∧ t.work.k = k ∧
        t.work.prev = (if s.len = 0 then blockAt iv 0 else blockAt d (ceilDiv s.len 8 - 1))
    result (.faChnDec rnd true np) (decA k) ∧ result (.fbChnDec rnd true np) (decB k)

/-! ### The ARX ciphers -/

/-- R112: the eight assignments of `QR_RFC`, each step using the values the previous steps wrote; nothing
else is written; and the rule's worked example. -/
def Obligations.QuarterRoundRfc : Prop :=
  (∀ (q : Quad) (x : Vector Word 16), [q.a, q.b, q.c, q.d].Nodup →
    let a1 := x[q.a] + x[q.b]
    let d1 := (x[q.d] ^^^ a1).rotateLeft 16
    let c1 := x[q.c] + d1
    let b1 := (x[q.b] ^^^ c1).rotateLeft 12
    let a2 := a1 + b1
    let d2 := (d1 ^^^ a2).rotateLeft 8
    let c2 := c1 + d2
    let b2 := (b1 ^^^ c2).rotateLeft 7
    (qrRfc q x)[q.a] = a2 ∧ (qrRfc q x)[q.b] = b2 ∧ (qrRfc q x)[q.c] = c2 ∧ (qrRfc q x)[q.d] = d2 ∧
      ∀ j : Fin 16, j ∉ [q.a, q.b, q.c, q.d] → (qrRfc q x)[j] = x[j]) ∧
  ∀ (q : Quad) (x : Vector Word 16), [q.a, q.b, q.c, q.d].Nodup →
    x[q.a] = 0x11111111 → x[q.b] = 0x01020304 → x[q.c] = 0x9b8d6f43 → x[q.d] = 0x01234567 →
    (qrRfc q x)[q.a] = 0xea2a92f4 ∧ (qrRfc q x)[q.b] = 0xcb1cf8ce ∧
      (qrRfc q x)[q.c] = 0x4581472e ∧ (qrRfc q x)[q.d] = 0x5881c4bb

/-- R142: the four assignments of `QR_EST`; nothing else is written; and the rule's worked example. -/
def Obligations.QuarterRoundEst : Prop :=
  (∀ (q : Quad) (x : Vector Word 16), [q.a, q.b, q.c, q.d].Nodup →
    let b1 := x[q.b] ^^^ (x[q.a] + x[q.d]).rotateLeft 7
    let c1 := x[q.c] ^^^ (b1 + x[q.a]).rotateLeft 9
    let d1 := x[q.d] ^^^ (c1 + b1).rotateLeft 13
    let a1 := x[q.a] ^^^ (d1 + c1).rotateLeft 18
    (qrEst q x)[q.a] = a1 ∧ (qrEst q x)[q.b] = b1 ∧ (qrEst q x)[q.c] = c1 ∧ (qrEst q x)[q.d] = d1 ∧
      ∀ j : Fin 16, j ∉ [q.a, q.b, q.c, q.d] → (qrEst q x)[j] = x[j]) ∧
  ∀ (q : Quad) (x : Vector Word 16), [q.a, q.b, q.c, q.d].Nodup →
    x[q.a] = 0x00000001 → x[q.b] = 0 → x[q.c] = 0 → x[q.d] = 0 →
    (qrEst q x)[q.a] = 0x08008145 ∧ (qrEst q x)[q.b] = 0x00000080 ∧
      (qrEst q x)[q.c] = 0x00010200 ∧ (qrEst q x)[q.d] = 0x20500000

/-- R113, R114: the column and the diagonal pass of `RFC` are the four quarter-rounds given, on
disjoint quads: in any order, or all four at once, the result is the same. -/
def Obligations.RfcPassesInAnyOrder : Prop :=
  ∀ x : Vector Word 16,
    let isPass (quads : List Quad) (y : Vector Word 16) : Prop :=
      (quads.flatMap fun q => [q.a, q.b, q.c, q.d]).Nodup ∧
      (∀ quads' : List Quad, quads'.Perm quads → arxPass qrRfc quads' x = y) ∧
      ∀ q ∈ quads, ∀ j ∈ [q.a, q.b, q.c, q.d], y[j] = (qrRfc q x)[j]
    isPass [⟨0, 4, 8, 12⟩, ⟨1, 5, 9, 13⟩, ⟨2, 6, 10, 14⟩, ⟨3, 7, 11, 15⟩]
      (arxPass qrRfc rfcParams.pass1 x) ∧
    isPass [⟨0, 5, 10, 15⟩, ⟨1, 6, 11, 12⟩, ⟨2, 7, 8, 13⟩, ⟨3, 4, 9, 14⟩]
      (arxPass qrRfc rfcParams.pass2 x)

/-- R143, R144: the column and the row pass of `EST` are the four quarter-rounds given, on disjoint
quads: in any order, or all four at once, the result is the same. -/
def Obligations.EstPassesInAnyOrder : Prop :=
  ∀ x : Vector Word 16,
    let isPass (quads : List Quad) (y : Vector Word 16) : Prop :=
      (quads.flatMap fun q => [q.a, q.b, q.c, q.d]).Nodup ∧
      (∀ quads' : List Quad, quads'.Perm quads → arxPass qrEst quads' x = y) ∧
      ∀ q ∈ quads, ∀ j ∈ [q.a, q.b, q.c, q.d], y[j] = (qrEst q x)[j]
    isPass [⟨0, 4, 8, 12⟩, ⟨5, 9, 13, 1⟩, ⟨10, 14, 2, 6⟩, ⟨15, 3, 7, 11⟩]
      (arxPass qrEst estParams.pass1 x) ∧
    isPass [⟨0, 1, 2, 3⟩, ⟨5, 6, 7, 4⟩, ⟨10, 11, 8, 9⟩, ⟨15, 12, 13, 14⟩]
      (arxPass qrEst estParams.pass2 x)

/-- R110, R111: what each of the sixteen slots of the `RFC` state is loaded with. -/
def Obligations.RfcStateSetUp : Prop :=
  ∀ (key nonce : List Byte) (c : Word), key.length = 32 → nonce.length = 12 →
    let le (bs : List Byte) (j : Nat) :=
      le32 (bs.getD (4 * j) 0) (bs.getD (4 * j + 1) 0) (bs.getD (4 * j + 2) 0) (bs.getD (4 * j + 3) 0)
    arxInit rfcParams key nonce c =
      #v[0x61707865, 0x3320646e, 0x79622d32, 0x6b206574,
        le key 0, le key 1, le key 2, le key 3, le key 4, le key 5, le key 6, le key 7,
        c, le nonce 0, le nonce 1, le nonce 2]

/-- R140, R141: what each of the sixteen slots of the `EST` state is loaded with, for a 32-byte key and for
a 16-byte key, which is used twice; slot 9 is always 0. -/
def Obligations.EstStateSetUp : Prop :=
  ∀ (key nonce : List Byte) (c : Word), nonce.length = 8 →
    let le (bs : List Byte) (j : Nat) :=
      le32 (bs.getD (4 * j) 0) (bs.getD (4 * j + 1) 0) (bs.getD (4 * j + 2) 0) (bs.getD (4 * j + 3) 0)
    (key.length = 32 →
      arxInit estParams key nonce c =
        #v[0x61707865, le key 0, le key 1, le key 2, le key 3, 0x3320646e, le nonce 0, le nonce 1,
          c, 0, 0x79622d32, le key 4, le key 5, le key 6, le key 7, 0x6b206574]) ∧
    (key.length = 16 →
      arxInit estParams key nonce c =
        #v[0x61707865, le key 0, le key 1, le key 2, le key 3, 0x3120646e, le nonce 0, le nonce 1,
          c, 0, 0x79622d36, le key 0, le key 1, le key 2, le key 3, 0x6b206574])

/-- R116, R146, R54: keystream byte `4j + t` is byte `t`, from the low end, of the sum of word `j` after the
double rounds (10 for `RFC`, half the round count for `EST`) and word `j` of the original state. -/
def Obligations.KeystreamBlockBytes : Prop :=
  ∀ (key nonce : List Byte) (c : Word) (rounds : Nat) (j : Fin 16) (t : Fin 4),
    let sr := arxInit rfcParams key nonce c
    let xr := (fun x => arxPass qrRfc rfcParams.pass2 (arxPass qrRfc rfcParams.pass1 x))^[10] sr
    let se := arxInit estParams key nonce c
    let xe := (fun x => arxPass qrEst estParams.pass2 (arxPass qrEst estParams.pass1 x))^[rounds / 2] se
    (rfcBlock key nonce c).ks.toList.getD (4 * j.val + t.val) 0 =
      (xr[j] + sr[j]).extractLsb' (8 * t.val) 8 ∧
    (estBlock key nonce rounds c).ks.toList.getD (4 * j.val + t.val) 0 =
      (xe[j] + se[j]).extractLsb' (8 * t.val) 8

/-- Applying `RFC.XOR` or `EST.XOR` twice with the same key and nonce returns the message, whatever the two
directions (the corner case of R118 and R149; S1 for the stream ciphers). That `DOUT` holds nothing else is
U7 as the model takes it (notes/assumptions/12.md). -/
def Obligations.XorTwiceReturnsMessage : Prop :=
  ∀ (i j : Instr) (s t s' : State) (d : List Byte),
    ((∃ dir mode rnd ivp dir' mode' rnd' ivp',
        i = .rfcXor dir mode rnd ivp true ∧ j = .rfcXor dir' mode' rnd' ivp' true) ∨
      ∃ dir mode rnd ivp dir' mode' ivp',
        i = .estXor dir mode rnd ivp true ∧ j = .estXor dir' mode' rnd ivp' true) →
    d.length = s.len → Memory.Holds s.din d →
    exec i s = .next t → statusTag t.status = 1 →
    s'.klen = s.klen → s'.key = s.key → s'.nlen = s.nlen → s'.nonce = s.nonce →
    s'.maxLen = s.maxLen → s'.len = t.olen → s'.din = t.dout →
    ∃ t', exec j s' = .next t' ∧ Succeeded t' d.length (fun a => d.getD a 0)

/-- R17: the word primitives in unbounded arithmetic. -/
def Obligations.WordPrimitives : Prop :=
  ∀ (a b : Word) (n : Nat),
    (∀ j, (a ^^^ b).getLsbD j = (a.getLsbD j ^^ b.getLsbD j)) ∧
    (add32 a b).toNat = (a.toNat + b.toNat) % 2 ^ 32 ∧
    (sub32 a b).toNat = (a.toNat + 2 ^ 32 - b.toNat) % 2 ^ 32 ∧
    (1 ≤ n → n ≤ 31 → (rotl32 a n).toNat = (a.toNat * 2 ^ n) % 2 ^ 32 + a.toNat / 2 ^ (32 - n)) ∧
    (n ≤ 31 → (shl32 a n).toNat = (a.toNat * 2 ^ n) % 2 ^ 32) ∧
    (n ≤ 31 → (shr32 a n).toNat = a.toNat / 2 ^ n)

/-- The byte and word conversions of R18: the value of a word made of four bytes in either order, and that
taking it apart again gives the bytes. -/
def Obligations.ByteWordConversions : Prop :=
  ∀ b0 b1 b2 b3 : Byte,
    (le32 b0 b1 b2 b3).toNat =
      b0.toNat + 2 ^ 8 * b1.toNat + 2 ^ 16 * b2.toNat + 2 ^ 24 * b3.toNat ∧
    (be32 b0 b1 b2 b3).toNat =
      2 ^ 24 * b0.toNat + 2 ^ 16 * b1.toNat + 2 ^ 8 * b2.toNat + b3.toNat ∧
    leBytes32 (le32 b0 b1 b2 b3) = #v[b0, b1, b2, b3] ∧
    beBytes32 (be32 b0 b1 b2 b3) = #v[b0, b1, b2, b3]

/-! ### The Feistel ciphers and the block modes -/

/-- R178: each block function inverts the other, for both algorithms and every key and block. -/
def Obligations.FeistelInverse : Prop :=
  ∀ (k : Vector Word 4) (b : Block),
    decA k (encA k b) = b ∧ encA k (decA k b) = b ∧ decB k (encB k b) = b ∧ encB k (decB k b) = b

/-- R171: `SUM_END` is `DELTA * NROUNDS` modulo 2^32; encryption ends with `sum` at that value and
decryption starts from it, and ends at 0. -/
def Obligations.FeistelSumEnds : Prop :=
  feistelDelta = 0x9E3779B9 ∧ feistelRounds = 32 ∧
  feistelSumEnd.toNat = (feistelDelta.toNat * feistelRounds) % 2 ^ 32 ∧ feistelSumEnd = 0xC6EF3720 ∧
  ∀ (k : Vector Word 4) (b : Block),
    (faEncHalves k b).sum = 0xC6EF3720 ∧ (fbEncHalves k b).sum = 0xC6EF3720 ∧
    (faDecHalves k b).sum = 0 ∧ (fbDecHalves k b).sum = 0 ∧
    faDecHalves k b = (faDecIter k)^[32] (loadHalves b 0xC6EF3720) ∧
    fbDecHalves k b = (fbDecIter k)^[32] (loadHalves b 0xC6EF3720)

/-- One iteration of each Feistel loop, the assignments of the pseudocode of R173, R174, R176 and R177 in
their order, and the two selectors of R175 as numbers. -/
def Obligations.FeistelIterations : Prop :=
  ∀ (k : Vector Word 4) (v0 v1 sum : Word),
    (let s := sum + 0x9E3779B9;
      let w0 := v0 + ((v1 <<< 4 + k[0]) ^^^ (v1 + s) ^^^ (v1 >>> 5 + k[1]));
      let w1 := v1 + ((w0 <<< 4 + k[2]) ^^^ (w0 + s) ^^^ (w0 >>> 5 + k[3]));
      faEncIter k ⟨v0, v1, sum⟩ = ⟨w0, w1, s⟩) ∧
    (let w1 := v1 - ((v0 <<< 4 + k[2]) ^^^ (v0 + sum) ^^^ (v0 >>> 5 + k[3]));
      let w0 := v0 - ((w1 <<< 4 + k[0]) ^^^ (w1 + sum) ^^^ (w1 >>> 5 + k[1]));
      faDecIter k ⟨v0, v1, sum⟩ = ⟨w0, w1, sum - 0x9E3779B9⟩) ∧
    (let s := sum + 0x9E3779B9;
      let w0 := v0 + (((v1 <<< 4 ^^^ v1 >>> 5) + v1) ^^^ (sum + k[sel0 sum]));
      let w1 := v1 + (((w0 <<< 4 ^^^ w0 >>> 5) + w0) ^^^ (s + k[sel1 s]));
      fbEncIter k ⟨v0, v1, sum⟩ = ⟨w0, w1, s⟩) ∧
    (let s := sum - 0x9E3779B9;
      let w1 := v1 - (((v0 <<< 4 ^^^ v0 >>> 5) + v0) ^^^ (sum + k[sel1 sum]));
      let w0 := v0 - (((w1 <<< 4 ^^^ w1 >>> 5) + w1) ^^^ (s + k[sel0 s]));
      fbDecIter k ⟨v0, v1, sum⟩ = ⟨w0, w1, s⟩) ∧
    (sel0 sum).val = sum.toNat % 4 ∧ (sel1 sum).val = sum.toNat / 2 ^ 11 % 4

/-- R206: each of the four constructions returns `8 * ceil_div(L, 8)` bytes for an input of `L` bytes,
whatever the block function. -/
def Obligations.BlockModeOutputLength : Prop :=
  ∀ (f : Block → Block) (iv : Block) (d : List Byte),
    (joinBlocks (indBlocks f (split8 d))).length = 8 * ceilDiv d.length 8 ∧
    (joinBlocks (chnEncBlocks f iv (split8 d))).length = 8 * ceilDiv d.length 8 ∧
    (joinBlocks (chnDecBlocks f iv (split8 d))).length = 8 * ceilDiv d.length 8

/-- R217: decrypting the whole ciphertext gives the message followed by the zero bytes of its pad, in both
modes and with both algorithms. -/
def Obligations.BlockModeRoundTrip : Prop :=
  ∀ (k : Vector Word 4) (iv : Block) (d : List Byte),
    let padded := d ++ List.replicate (8 * ceilDiv d.length 8 - d.length) 0
    let roundInd (e f : Block → Block) :=
      joinBlocks (indBlocks f (split8 (joinBlocks (indBlocks e (split8 d)))))
    let roundChn (e f : Block → Block) :=
      joinBlocks (chnDecBlocks f iv (split8 (joinBlocks (chnEncBlocks e iv (split8 d)))))
    roundInd (encA k) (decA k) = padded ∧ roundInd (encB k) (decB k) = padded ∧
    roundChn (encA k) (decA k) = padded ∧ roundChn (encB k) (decB k) = padded

/-- R218: changing one byte of the plaintext changes, in chained mode, that block's ciphertext and every
later block's and no earlier block's; in independent mode, only that block's. -/
def Obligations.EncryptionDiffusion : Prop :=
  ∀ (k : Vector Word 4) (iv : Block) (d : List Byte) (p : Nat) (b : Byte),
    p < d.length → d[p]? ≠ some b →
    let d' := d.set p b
    ∀ e : Block → Block, e = encA k ∨ e = encB k →
      ∀ i, i < ceilDiv d.length 8 →
        ((chnEncBlocks e iv (split8 d'))[i]? = (chnEncBlocks e iv (split8 d))[i]? ↔ i < p / 8) ∧
        ((indBlocks e (split8 d'))[i]? = (indBlocks e (split8 d))[i]? ↔ i ≠ p / 8)

/-- R219: a changed ciphertext block changes, in chained decryption, its own plaintext block and the next
and no other; in independent decryption, only its own. -/
def Obligations.DecryptionErrorPropagation : Prop :=
  ∀ (k : Vector Word 4) (iv : Block) (bs : List Block) (j : Nat) (b : Block),
    j < bs.length → bs[j]? ≠ some b →
    ∀ f : Block → Block, f = decA k ∨ f = decB k →
      ∀ i, i < bs.length →
        ((chnDecBlocks f iv (bs.set j b))[i]? = (chnDecBlocks f iv bs)[i]? ↔ i ≠ j ∧ i ≠ j + 1) ∧
        ((indBlocks f (bs.set j b))[i]? = (indBlocks f bs)[i]? ↔ i ≠ j)

/-! ### Invariants and whole-machine rules -/

/-- Every step keeps `STATUS` legal: one of the words that reset, `START`, success and the seven kinds the
engine raises leave in it, with `BUSY` as `phase` says. -/
def Obligations.StepKeepsStatusLegal : Prop :=
  ∀ s t : State, s.StatusLegal → step s = .next t → t.StatusLegal

/-- Every step keeps the byte buffers in canonical form and the input buffers within their extents. The
bound on the input buffers rests on the model's fault past it (notes/assumptions/5.md). -/
def Obligations.StepKeepsBuffersCanonical : Prop :=
  ∀ s t : State, s.BuffersCanonical → step s = .next t → t.BuffersCanonical

/-- Every step keeps `DOUT` holding exactly the bytes below `OLEN`, within its extent, and none in an idle
engine whose last command did not succeed. That `DOUT` holds nothing else is the model's choice
(notes/assumptions/12.md). -/
def Obligations.StepKeepsOutputDescribed : Prop :=
  ∀ s t : State, s.OutputDescribed → step s = .next t → t.OutputDescribed

/-- The reset state meets the three invariants. That `MAX_LEN` there is in its range is the model's choice
(notes/assumptions/3.md), as are the canonical (empty) input buffers (2.md). -/
def Obligations.ResetMeetsInvariants : Prop :=
  State.reset.StatusLegal ∧ State.reset.BuffersCanonical ∧ State.reset.OutputDescribed

/-- From R35: the result of a command (`STATUS`, `OLEN`, `DOUT`) is a function of its own command registers and
buffers: two engines that agree on those, and on the spec's open parameter `MAX_LEN`, end the command alike,
whatever was left in them before. That both are refused where an operand byte was never written is the
model's choice (U9, notes/assumptions/2.md). -/
def Obligations.ResultDependsOnlyOnCommand : Prop :=
  ∀ s s' : State, s.Ready → s'.Ready →
    s'.cmd = s.cmd → s'.klen = s.klen → s'.key = s.key → s'.nlen = s.nlen → s'.nonce = s.nonce →
    s'.ivlen = s.ivlen → s'.iv = s.iv → s'.ctr = s.ctr → s'.len = s.len → s'.din = s.din →
    s'.maxLen = s.maxLen →
    (∃ t t', step s = .next t ∧ step s' = .next t' ∧
      t'.status = t.status ∧ t'.olen = t.olen ∧ t'.dout = t.dout ∧ t'.phase = t.phase) ∨
    ∃ b, step s = .refused (.unwrittenByte b) ∧ step s' = .refused (.unwrittenByte b)

/-- R37: no working register reaches the host: from two states that differ in the working registers only,
a step gives the same fault or refusal, or next states that differ in the working registers only and show
the host the same; and of the host's actions only reset changes one. -/
def Obligations.WorkingRegistersAreInvisible : Prop :=
  (∀ s t : State, s.phase = .idle → s.script.head? ≠ some .reset → step s = .next t →
    t.work = s.work) ∧
  ∀ (s : State) (w : Work),
    (∃ t w', step s = .next t ∧ step { s with work := w } = .next { t with work := w' } ∧
      State.hostView { t with work := w' } = t.hostView) ∨
    (∃ f, step s = .fault f ∧ step { s with work := w } = .fault f) ∨
    ∃ r, step s = .refused r ∧ step { s with work := w } = .refused r

/-- What the host is shown of `DOUT` and when (R28, R63, R66): no byte while `TAG` is not 1, that is after
`START` and in every state in which a command is running, after a failure and after reset, although `START`
keeps the stored bytes; after a success exactly the result, the bytes below `OLEN`. That a `DOUT` without a
value has no byte is U7 as the model takes it (notes/assumptions/12.md); that `START` keeps the stored bytes
is its reading of R244 (10.md); the host's actions are its own field (8.md). -/
def Obligations.HostSeesOutputOnlyAfterSuccess : Prop :=
  let hidden (t : State) : Prop := ∀ a, Memory.read t.hostView.dout a = none
  (∀ s : State, s.hostView.status = s.status ∧ s.hostView.olen = s.olen ∧
    (statusTag s.status ≠ 1 → hidden s) ∧
    (statusTag s.status = 1 → ∀ a,
      Memory.read s.hostView.dout a = if a < s.olen then Memory.read s.dout a else none)) ∧
  (∀ (s : State) (rest : List HostAction), s.phase = .idle → s.script = .start :: rest →
    ∃ t, step s = .next t ∧ t.dout = s.dout ∧ hidden t) ∧
  (∀ s t : State, s.StatusLegal → step s = .next t → t.phase = .busy → hidden t) ∧
  (∀ (s : State) (e : ErrKind), s.Ready → s.firstError = some e →
    ∃ t, step s = .next t ∧ t.hostView.olen = 0 ∧ hidden t) ∧
  (∀ (s : State) (rest : List HostAction), s.script = .reset :: rest →
    ∃ t, step s = .next t ∧ t.hostView.olen = 0 ∧ hidden t) ∧
  ∀ s : State, s.Ready → s.firstError = none → s.OperandsWritten →
    ∃ t, step s = .next t ∧ statusTag t.hostView.status = 1 ∧ t.hostView.olen = s.expectedOlen ∧
      ∀ a, Memory.read t.hostView.dout a = Memory.read t.dout a ∧
        ((Memory.read t.hostView.dout a).isSome = true ↔ a < s.expectedOlen)

/-- The engine only reads the command registers and the input buffers: no operation changes one (R21, R22,
R26, R50, R64), in success or failure. -/
def Obligations.EngineWritesNoCommandRegister : Prop :=
  ∀ (s t : State), s.Ready → step s = .next t → SameCommand s t

/-- R238: `DecryptionFailed` (code 7) is never raised by the engine: no completion of a command reports it. -/
def Obligations.DecryptionFailedNeverRaised : Prop :=
  errCode .decryptionFailed = 7 ∧
  ∀ (s t : State), s.Ready → step s = .next t → statusErr t.status ≠ 7

/-- `phase` goes from idle to busy only at the host's `START`, and from busy to idle only at the completion
of the command, with a result, or at reset, without one (R34, R244, R247, R270). The host's actions and
their order are the model's own field (notes/assumptions/8.md, 9.md). -/
def Obligations.PhaseChangesOnlyAtStartCompletionReset : Prop :=
  ∀ s t : State, step s = .next t →
    (s.phase = .idle → t.phase = .busy → s.script.head? = some .start) ∧
    (s.phase = .busy → t.phase = .idle →
      (s.Ready ∧ (statusTag t.status = 1 ∨ statusTag t.status = 2)) ∨
        (s.script.head? = some .reset ∧ t.status = 0))

/-- A started command always ends: from an idle engine, `START` and a wait bring it back to idle with a
result in `STATUS` and the host's next action due, when the host has written what the command reads (R63,
R247, R280). The host's actions and their order are the model's own field (notes/assumptions/8.md, 9.md);
the refusal that the last premise rules out is 2.md's. -/
def Obligations.StartedCommandCompletes : Prop :=
  ∀ (s : State) (rest : List HostAction),
    s.phase = .idle → s.script = .start :: .wait :: rest → s.OperandsWritten →
    ∃ t, Sys2Proof.core.run 3 s = .next t ∧ t.phase = .idle ∧ t.script = rest ∧
      statusBusy t.status = false ∧ (statusTag t.status = 1 ∨ statusTag t.status = 2)

/-- The operand table of R89: what each operation does not read has no effect on it. Changing an ignored
register or buffer before the command gives the same answer with that change in it. -/
def Obligations.IgnoredOperandsHaveNoEffect : Prop :=
  ∀ (s : State) (n l : BitVec 8) (m m' m'' : Memory) (c : Word) (len : Nat)
    (dir : Bool) (mode rnd : BitVec 2) (ivp np : Bool),
    (let f (t : State) := { t with ivlen := l, iv := m, len := len, din := m' };
      exec (.rfcBlk dir mode rnd ivp np) (f s) = mapNext f (exec (.rfcBlk dir mode rnd ivp np) s) ∧
      exec (.estBlk dir mode rnd ivp np) (f s) = mapNext f (exec (.estBlk dir mode rnd ivp np) s)) ∧
    (let f (t : State) := { t with ivlen := l, iv := m, ctr := c };
      exec (.rfcXor dir mode rnd ivp np) (f s) = mapNext f (exec (.rfcXor dir mode rnd ivp np) s) ∧
      exec (.estXor dir mode rnd ivp np) (f s) = mapNext f (exec (.estXor dir mode rnd ivp np) s)) ∧
    (let f (t : State) := { t with ivlen := l, iv := m, nlen := n, nonce := m'', ctr := c };
      ∀ i ∈ [Instr.faEnc mode rnd ivp np, .faDec mode rnd ivp np, .fbEnc mode rnd ivp np,
          .fbDec mode rnd ivp np, .faIndEnc rnd ivp np, .faIndDec rnd ivp np, .fbIndEnc rnd ivp np,
          .fbIndDec rnd ivp np],
        exec i (f s) = mapNext f (exec i s)) ∧
    (let f (t : State) := { t with nlen := n, nonce := m'', ctr := c };
      ∀ i ∈ [Instr.faChnEnc rnd ivp np, .faChnDec rnd ivp np, .fbChnEnc rnd ivp np,
          .fbChnDec rnd ivp np],
        exec i (f s) = mapNext f (exec i s))

/-- The fields an operation ignores do not change what it does (R84 to R87): `DIR`, `MODE` and `IVP` for the
ARX operations, `RND` too for `RFC`; `MODE`, `RND`, `IVP`, `NP` for the single blocks; `RND`, `NP` for the
block modes, and `IVP` in independent mode. For `EST` the two sides have one `RND`, which is no ignored
field. -/
def Obligations.IgnoredFieldsHaveNoEffect : Prop :=
  ∀ (s : State) (dir dir' : Bool) (mode mode' rnd rnd' : BitVec 2) (ivp ivp' np np' : Bool),
    exec (.rfcBlk dir mode rnd ivp np) s = exec (.rfcBlk dir' mode' rnd' ivp' np) s ∧
    exec (.rfcXor dir mode rnd ivp np) s = exec (.rfcXor dir' mode' rnd' ivp' np) s ∧
    exec (.estBlk dir mode rnd ivp np) s = exec (.estBlk dir' mode' rnd ivp' np) s ∧
    exec (.estXor dir mode rnd ivp np) s = exec (.estXor dir' mode' rnd ivp' np) s ∧
    exec (.faEnc mode rnd ivp np) s = exec (.faEnc mode' rnd' ivp' np') s ∧
    exec (.faDec mode rnd ivp np) s = exec (.faDec mode' rnd' ivp' np') s ∧
    exec (.fbEnc mode rnd ivp np) s = exec (.fbEnc mode' rnd' ivp' np') s ∧
    exec (.fbDec mode rnd ivp np) s = exec (.fbDec mode' rnd' ivp' np') s ∧
    exec (.faIndEnc rnd ivp np) s = exec (.faIndEnc rnd' ivp' np') s ∧
    exec (.faIndDec rnd ivp np) s = exec (.faIndDec rnd' ivp' np') s ∧
    exec (.fbIndEnc rnd ivp np) s = exec (.fbIndEnc rnd' ivp' np') s ∧
    exec (.fbIndDec rnd ivp np) s = exec (.fbIndDec rnd' ivp' np') s ∧
    exec (.faChnEnc rnd ivp np) s = exec (.faChnEnc rnd' ivp np') s ∧
    exec (.faChnDec rnd ivp np) s = exec (.faChnDec rnd' ivp np') s ∧
    exec (.fbChnEnc rnd ivp np) s = exec (.fbChnEnc rnd' ivp np') s ∧
    exec (.fbChnDec rnd ivp np) s = exec (.fbChnDec rnd' ivp np') s

/-- R14, R277: with `MAX_LEN <= 2^38` and `LEN <= MAX_LEN`, the keystream loop hands the block function of
block `i` a counter whose value is `i`, for every block of the message, so that no counter value is used
twice: of the loop itself, whatever the block function and the message, and of the output of `RFC.XOR` and
`EST.XOR` (R118, R149). -/
def Obligations.BlockCounterNeverWraps : Prop :=
  ∀ s : State, s.maxLen ≤ 2 ^ 38 → s.len ≤ s.maxLen →
    let n := ceilDiv s.len 64
    ∃ c : Nat → Word,
      (∀ i, i < n → (c i).toNat = i) ∧ (∀ i j, i < n → j < n → c i = c j → i = j) ∧
      (∀ (block : Word → KeystreamBlock) (d : List Byte), d.length = s.len →
        keystreamXor block n 0 d = (List.range n).flatMap fun i =>
          xorBytes ((d.drop (64 * i)).take 64) (block (c i)).ks.toList) ∧
      ∀ (dir : Bool) (mode rnd : BitVec 2) (ivp : Bool) (key nonce d : List Byte),
        key.length = s.klen.toNat → Memory.Holds s.key key →
        nonce.length = s.nlen.toNat → Memory.Holds s.nonce nonce →
        d.length = s.len → Memory.Holds s.din d →
        let output (op : Instr) (block : Word → KeystreamBlock) : Prop :=
          ∃ t, exec op s = .next t ∧ statusTag t.status = 1 ∧
            ∀ i j, i < n → j < 64 → 64 * i + j < s.len →
              Memory.read t.dout (64 * i + j) =
                some (d.getD (64 * i + j) 0 ^^^ (block (c i)).ks.toList.getD j 0)
        (s.klen = 32 → s.nlen = 12 → output (.rfcXor dir mode rnd ivp true) (rfcBlock key nonce)) ∧
        ∀ rounds, estRounds rnd = some rounds → (s.klen = 16 ∨ s.klen = 32) → s.nlen = 8 →
          output (.estXor dir mode rnd ivp true) (estBlock key nonce rounds)

/-! ### The host -/

/-- The last sentence of R244: an idle engine's next `START` sets `BUSY = 1`, `TAG = 0`, `ERR = 0`; every
other register and buffer keeps its value. That `OLEN` and `DOUT` keep their contents at `START` is the
model's reading of R244 (notes/assumptions/10.md). -/
def Obligations.StartSetsBusy : Prop :=
  ∀ (s : State) (rest : List HostAction), s.phase = .idle → s.script = .start :: rest →
    ∃ t, step s = .next t ∧ t.phase = .busy ∧ statusBusy t.status = true ∧
      statusTag t.status = 0 ∧ statusErr t.status = 0 ∧ t.script = rest ∧
      SameCommand s { t with script := s.script } ∧ t.olen = s.olen ∧ t.dout = s.dout ∧ t.work = s.work

/-- R270, R271: reset, whether idle or busy, leaves `phase` idle, `STATUS` and `OLEN` 0 and `DOUT` without a
value; a running command produces no result. That the pending actions and `MAX_LEN` stay is the model's
choice (notes/assumptions/14.md). -/
def Obligations.ResetAbandonsAndClears : Prop :=
  ∀ (s : State) (rest : List HostAction), s.script = .reset :: rest →
    ∃ t, step s = .next t ∧ t.phase = .idle ∧ t.status = 0 ∧ t.olen = 0 ∧
      (∀ a, Memory.read t.dout a = none) ∧ t.script = rest ∧ t.maxLen = s.maxLen

/-- The model's treatment of what the spec leaves undefined while a command runs: a second `START` has no
effect (U10, notes/assumptions/7.md); a host write is refused (U8, notes/assumptions/6.md). -/
def Obligations.HostWhileBusy : Prop :=
  ∀ (s : State) (rest : List HostAction), s.phase = .busy →
    (s.script = .start :: rest → step s = .next { s with script := rest }) ∧
    ∀ w, s.script = .write w :: rest → step s = .refused .writeWhileBusy

/-- An idle engine with nothing pending stays as it is; a wait while idle changes nothing but the host's
pending actions. The pending actions are the model's own field (notes/assumptions/8.md). -/
def Obligations.IdleEngineWaits : Prop :=
  ∀ (s : State) (rest : List HostAction), s.phase = .idle →
    (s.script = [] → step s = .next s) ∧
    (s.script = .wait :: rest → step s = .next { s with script := rest })

/-- A host write of bytes to an input buffer of an idle engine puts them at their offsets and changes no
other byte, buffer or register; past the guaranteed extent it faults (R19, R51; the fault is the model's
choice, notes/assumptions/5.md). -/
def Obligations.HostWritesBytes : Prop :=
  ∀ (s : State) (rest : List HostAction) (b : InBuf) (off : Nat) (bs : List Byte),
    s.phase = .idle → s.script = .write (.bytes b off bs) :: rest →
    (off + bs.length ≤ s.extent b →
      ∃ t, step s = .next t ∧ t.script = rest ∧
        (∀ a, Memory.read (t.buf b) a =
          if off ≤ a ∧ a < off + bs.length then bs[a - off]? else Memory.read (s.buf b) a) ∧
        (∀ c, c ≠ b → t.buf c = s.buf c) ∧
        t = State.setBuf { s with script := rest } b (t.buf b)) ∧
    (s.extent b < off + bs.length → step s = .fault (.outsideBuffer b))

/-- A host write to a command register of an idle engine sets that register and nothing else (R21 to R26).
The pending actions are the model's own field (notes/assumptions/8.md). -/
def Obligations.HostWritesRegisters : Prop :=
  ∀ (s : State) (rest : List HostAction) (v : BitVec 32) (n : BitVec 8) (l : Nat), s.phase = .idle →
    (s.script = .write (.cmd v) :: rest → step s = .next { s with cmd := v, script := rest }) ∧
    (s.script = .write (.klen n) :: rest → step s = .next { s with klen := n, script := rest }) ∧
    (s.script = .write (.nlen n) :: rest → step s = .next { s with nlen := n, script := rest }) ∧
    (s.script = .write (.ivlen n) :: rest → step s = .next { s with ivlen := n, script := rest }) ∧
    (s.script = .write (.ctr v) :: rest → step s = .next { s with ctr := v, script := rest }) ∧
    (s.script = .write (.len l) :: rest → step s = .next { s with len := l, script := rest })

/-- U9 as the model takes it (notes/assumptions/2.md): a command that passes every check and reads a byte
that the host has not written since reset is refused, and only such a command is. -/
def Obligations.RefusedOnlyForUnwrittenOperands : Prop :=
  ∀ s : State, s.Ready →
    ((∃ r, step s = .refused r) ↔ s.firstError = none ∧ ¬ s.OperandsWritten) ∧ ∀ f, step s ≠ .fault f
end

