-- ==== Sys2Proof/Laws/Memory.lean ====
section
/-! SUPPORT. The laws of the byte buffers: what a read gives after a write, what a sequence of bytes is
after it is written, and that every operation keeps the canonical form. -/

namespace Sys2Proof.Machine

@[simp] theorem Memory.read_nil (a : Nat) : Memory.read [] a = none := rfl

theorem Memory.read_write (m : Memory) (a : Nat) (b : Byte) (a' : Nat) :
    Memory.read (Memory.write m a b) a' = if a' = a then some b else Memory.read m a' := by
  induction m with
  | nil => simp only [Memory.write, Memory.read, eq_comm]
  | cons cell m ih =>
    obtain ⟨c, v⟩ := cell
    rw [Memory.write]
    by_cases h1 : a < c
    · by_cases h : a' = a
      · simp [h1, Memory.read, h]
      · simp [h1, Memory.read, h, Ne.symm h]
    · by_cases h2 : a = c
      · by_cases h : a' = a
        · simp [h2, Memory.read, h]
        · have h3 : ¬ c = a' := fun e => h (by omega)
          have h4 : ¬ a' = c := fun e => h3 e.symm
          simp [h2, Memory.read, h3, h4]
      · rw [if_neg h1, if_neg h2]
        by_cases h : c = a'
        · have h3 : ¬ a' = a := by omega
          simp [Memory.read, h, h3]
        · simp [Memory.read, h, ih]

theorem Memory.read_write_same (m : Memory) (a : Nat) (b : Byte) :
    Memory.read (Memory.write m a b) a = some b := by simp [Memory.read_write]

theorem Memory.read_write_other (m : Memory) (a : Nat) (b : Byte) (a' : Nat) (h : a' ≠ a) :
    Memory.read (Memory.write m a b) a' = Memory.read m a' := by simp [Memory.read_write, h]

/-- What a read gives after a sequence of bytes is written: the byte of the sequence inside its range,
what was there before outside. -/
theorem Memory.read_writeBytes (m : Memory) (bs : List Byte) (off a : Nat) :
    Memory.read (Memory.writeBytes m off bs) a =
      if off ≤ a ∧ a < off + bs.length then bs[a - off]? else Memory.read m a := by
  induction bs generalizing off with
  | nil =>
    have h : ¬ (off ≤ a ∧ a < off + ([] : List Byte).length) := by simp
    rw [if_neg h]; rfl
  | cons b bs ih =>
    rw [Memory.writeBytes, Memory.read_write, ih]
    by_cases h : a = off
    · subst h; simp
    · by_cases h2 : off + 1 ≤ a ∧ a < off + 1 + bs.length
      · have h3 : off ≤ a ∧ a < off + (b :: bs).length := by simp only [List.length_cons]; omega
        have h4 : a - off = (a - (off + 1)) + 1 := by omega
        simp only [if_neg h, if_pos h2, if_pos h3, h4, List.getElem?_cons_succ]
      · have h3 : ¬ (off ≤ a ∧ a < off + (b :: bs).length) := by
          simp only [List.length_cons]; omega
        simp only [if_neg h, if_neg h2, if_neg h3]

/-- `DOUT` after a success: exactly the result's bytes. -/
theorem Memory.read_result (bs : List Byte) (a : Nat) :
    Memory.read (Memory.writeBytes [] 0 bs) a = bs[a]? := by
  rw [Memory.read_writeBytes]
  by_cases h : a < bs.length
  · simp [h]
  · simp [h]

/-- A read of `n` bytes succeeds exactly when every byte has a value. -/
theorem Memory.readBytes_eq_some_iff (m : Memory) (n off : Nat) (bs : List Byte) :
    Memory.readBytes m off n = some bs ↔
      bs.length = n ∧ ∀ j, j < n → Memory.read m (off + j) = bs[j]? := by
  induction n generalizing off bs with
  | zero =>
    simp only [Memory.readBytes, Option.some.injEq]
    constructor
    · rintro rfl; simp
    · rintro ⟨h, -⟩; exact (List.length_eq_zero_iff.mp h).symm
  | succ n ih =>
    constructor
    · intro h
      rw [Memory.readBytes] at h
      split at h
      · next b bs' hb hbs =>
        obtain ⟨hl, hr⟩ := (ih _ _).mp hbs
        cases h
        refine ⟨by simp [hl], fun j hj => ?_⟩
        cases j with
        | zero => simpa using hb
        | succ j =>
          have := hr j (by omega)
          rw [show off + (j + 1) = off + 1 + j by omega, this]; simp
      · cases h
    · rintro ⟨hl, hr⟩
      cases bs with
      | nil => simp at hl
      | cons b bs =>
        have hb : Memory.read m off = some b := by simpa using hr 0 (by omega)
        have hbs : Memory.readBytes m (off + 1) n = some bs := by
          refine (ih _ _).mpr ⟨by simpa using hl, fun j hj => ?_⟩
          have := hr (j + 1) (by omega)
          rw [show off + 1 + j = off + (j + 1) by omega, this]; simp
        simp [Memory.readBytes, hb, hbs]

theorem Memory.wf_cons (a : Nat) (b : Byte) (m : Memory) :
    Memory.wf ((a, b) :: m) = true ↔ (∀ c ∈ m.head?, a < c.1) ∧ Memory.wf m = true := by
  cases m with
  | nil => simp [Memory.wf]
  | cons cell m => obtain ⟨c, v⟩ := cell; simp [Memory.wf]

theorem Memory.head_write (m : Memory) (a : Nat) (b : Byte) (c : Host.Cell)
    (h : c ∈ (Memory.write m a b).head?) : c.1 = a ∨ ∃ d ∈ m.head?, c.1 = d.1 := by
  cases m with
  | nil => simp [Memory.write] at h; left; rw [← h]
  | cons cell m =>
    obtain ⟨e, v⟩ := cell
    rw [Memory.write] at h
    split at h
    · simp at h; left; rw [← h]
    · split at h
      · simp at h; left; rw [← h]
      · simp at h; right; exact ⟨(e, v), by simp, by rw [← h]⟩

/-- Writing a byte keeps the canonical form. -/
theorem Memory.wf_write (m : Memory) (a : Nat) (b : Byte) (h : Memory.wf m = true) :
    Memory.wf (Memory.write m a b) = true := by
  induction m with
  | nil => rfl
  | cons cell m ih =>
    obtain ⟨c, v⟩ := cell
    obtain ⟨h1, h2⟩ := (Memory.wf_cons c v m).mp h
    rw [Memory.write]
    split
    · next hac => exact (Memory.wf_cons a b _).mpr ⟨by simpa using hac, h⟩
    · split
      · next _ hac => subst hac; exact (Memory.wf_cons a b m).mpr ⟨h1, h2⟩
      · next hlt hne =>
        refine (Memory.wf_cons c v _).mpr ⟨fun d hd => ?_, ih h2⟩
        rcases Memory.head_write m a b d hd with h3 | ⟨e, he, h3⟩
        · omega
        · rw [h3]; exact h1 e he

/-- Writing a sequence keeps the canonical form. -/
theorem Memory.wf_writeBytes (m : Memory) (bs : List Byte) (off : Nat) (h : Memory.wf m = true) :
    Memory.wf (Memory.writeBytes m off bs) = true := by
  induction bs generalizing off with
  | nil => exact h
  | cons b bs ih => exact Memory.wf_write _ _ _ (ih _)

/-- The buffers of the reset state have the canonical form. -/
theorem State.reset_buffers_wf (b : InBuf) :
    Memory.wf (State.reset.buf b) = true ∧ Memory.wf State.reset.dout = true := by
  cases b <;> exact ⟨rfl, rfl⟩

/-- A read through a filter by offset. -/
theorem Memory.read_filter (m : Memory) (p : Nat → Bool) (a : Nat) :
    Memory.read (m.filter fun c => p c.1) a = if p a = true then Memory.read m a else none := by
  induction m with
  | nil => simp [Memory.read]
  | cons c m ih =>
    by_cases hc : p c.1 = true <;> by_cases ha : c.1 = a <;> simp_all [Memory.read]

end Sys2Proof.Machine
end

