-- ==== Sys2Proof/Laws/State.lean ====
section
/-! SUPPORT. One lemma per field per named update of State, so that no later proof unfolds a record
update; and the host's view of each input buffer after setBuf. -/

namespace Sys2Proof.Machine

section
variable (s : State)
@[simp] theorem State.start_cmd : s.start.cmd = s.cmd := rfl
@[simp] theorem State.start_klen : s.start.klen = s.klen := rfl
@[simp] theorem State.start_key : s.start.key = s.key := rfl
@[simp] theorem State.start_nlen : s.start.nlen = s.nlen := rfl
@[simp] theorem State.start_nonce : s.start.nonce = s.nonce := rfl
@[simp] theorem State.start_ivlen : s.start.ivlen = s.ivlen := rfl
@[simp] theorem State.start_iv : s.start.iv = s.iv := rfl
@[simp] theorem State.start_ctr : s.start.ctr = s.ctr := rfl
@[simp] theorem State.start_len : s.start.len = s.len := rfl
@[simp] theorem State.start_din : s.start.din = s.din := rfl
@[simp] theorem State.start_status : s.start.status = statusRunning := rfl
@[simp] theorem State.start_olen : s.start.olen = s.olen := rfl
@[simp] theorem State.start_dout : s.start.dout = s.dout := rfl
@[simp] theorem State.start_phase : s.start.phase = .busy := rfl
@[simp] theorem State.start_work : s.start.work = s.work := rfl
@[simp] theorem State.start_maxLen : s.start.maxLen = s.maxLen := rfl
@[simp] theorem State.start_script : s.start.script = s.script := rfl
end

section
variable (s : State) (e : ErrKind)
@[simp] theorem State.raise_cmd : (s.raise e).cmd = s.cmd := rfl
@[simp] theorem State.raise_klen : (s.raise e).klen = s.klen := rfl
@[simp] theorem State.raise_key : (s.raise e).key = s.key := rfl
@[simp] theorem State.raise_nlen : (s.raise e).nlen = s.nlen := rfl
@[simp] theorem State.raise_nonce : (s.raise e).nonce = s.nonce := rfl
@[simp] theorem State.raise_ivlen : (s.raise e).ivlen = s.ivlen := rfl
@[simp] theorem State.raise_iv : (s.raise e).iv = s.iv := rfl
@[simp] theorem State.raise_ctr : (s.raise e).ctr = s.ctr := rfl
@[simp] theorem State.raise_len : (s.raise e).len = s.len := rfl
@[simp] theorem State.raise_din : (s.raise e).din = s.din := rfl
@[simp] theorem State.raise_status : (s.raise e).status = statusFailure e := rfl
@[simp] theorem State.raise_olen : (s.raise e).olen = 0 := rfl
@[simp] theorem State.raise_dout : (s.raise e).dout = [] := rfl
@[simp] theorem State.raise_phase : (s.raise e).phase = .idle := rfl
@[simp] theorem State.raise_work : (s.raise e).work = s.work := rfl
@[simp] theorem State.raise_maxLen : (s.raise e).maxLen = s.maxLen := rfl
@[simp] theorem State.raise_script : (s.raise e).script = s.script := rfl
end

section
variable (s : State) (out : List Byte) (w : Work)
@[simp] theorem State.succeed_cmd : (s.succeed out w).cmd = s.cmd := rfl
@[simp] theorem State.succeed_klen : (s.succeed out w).klen = s.klen := rfl
@[simp] theorem State.succeed_key : (s.succeed out w).key = s.key := rfl
@[simp] theorem State.succeed_nlen : (s.succeed out w).nlen = s.nlen := rfl
@[simp] theorem State.succeed_nonce : (s.succeed out w).nonce = s.nonce := rfl
@[simp] theorem State.succeed_ivlen : (s.succeed out w).ivlen = s.ivlen := rfl
@[simp] theorem State.succeed_iv : (s.succeed out w).iv = s.iv := rfl
@[simp] theorem State.succeed_ctr : (s.succeed out w).ctr = s.ctr := rfl
@[simp] theorem State.succeed_len : (s.succeed out w).len = s.len := rfl
@[simp] theorem State.succeed_din : (s.succeed out w).din = s.din := rfl
@[simp] theorem State.succeed_status : (s.succeed out w).status = statusSuccess := rfl
@[simp] theorem State.succeed_olen : (s.succeed out w).olen = out.length := rfl
@[simp] theorem State.succeed_dout : (s.succeed out w).dout = Memory.writeBytes [] 0 out := rfl
@[simp] theorem State.succeed_phase : (s.succeed out w).phase = .idle := rfl
@[simp] theorem State.succeed_work : (s.succeed out w).work = w := rfl
@[simp] theorem State.succeed_maxLen : (s.succeed out w).maxLen = s.maxLen := rfl
@[simp] theorem State.succeed_script : (s.succeed out w).script = s.script := rfl
end

section
variable (s : State)
@[simp] theorem State.resetEngine_cmd : s.resetEngine.cmd = State.reset.cmd := rfl
@[simp] theorem State.resetEngine_klen : s.resetEngine.klen = State.reset.klen := rfl
@[simp] theorem State.resetEngine_key : s.resetEngine.key = State.reset.key := rfl
@[simp] theorem State.resetEngine_nlen : s.resetEngine.nlen = State.reset.nlen := rfl
@[simp] theorem State.resetEngine_nonce : s.resetEngine.nonce = State.reset.nonce := rfl
@[simp] theorem State.resetEngine_ivlen : s.resetEngine.ivlen = State.reset.ivlen := rfl
@[simp] theorem State.resetEngine_iv : s.resetEngine.iv = State.reset.iv := rfl
@[simp] theorem State.resetEngine_ctr : s.resetEngine.ctr = State.reset.ctr := rfl
@[simp] theorem State.resetEngine_len : s.resetEngine.len = State.reset.len := rfl
@[simp] theorem State.resetEngine_din : s.resetEngine.din = State.reset.din := rfl
@[simp] theorem State.resetEngine_status : s.resetEngine.status = State.reset.status := rfl
@[simp] theorem State.resetEngine_olen : s.resetEngine.olen = State.reset.olen := rfl
@[simp] theorem State.resetEngine_dout : s.resetEngine.dout = State.reset.dout := rfl
@[simp] theorem State.resetEngine_phase : s.resetEngine.phase = State.reset.phase := rfl
@[simp] theorem State.resetEngine_work : s.resetEngine.work = State.reset.work := rfl
@[simp] theorem State.resetEngine_maxLen : s.resetEngine.maxLen = s.maxLen := rfl
@[simp] theorem State.resetEngine_script : s.resetEngine.script = s.script := rfl
end

section
variable (s : State) (nbits w : Nat)
@[simp] theorem State.withFetchWord_cmd : (s.withFetchWord nbits w).cmd = BitVec.ofNat 32 w := rfl
@[simp] theorem State.withFetchWord_klen : (s.withFetchWord nbits w).klen = s.klen := rfl
@[simp] theorem State.withFetchWord_key : (s.withFetchWord nbits w).key = s.key := rfl
@[simp] theorem State.withFetchWord_nlen : (s.withFetchWord nbits w).nlen = s.nlen := rfl
@[simp] theorem State.withFetchWord_nonce : (s.withFetchWord nbits w).nonce = s.nonce := rfl
@[simp] theorem State.withFetchWord_ivlen : (s.withFetchWord nbits w).ivlen = s.ivlen := rfl
@[simp] theorem State.withFetchWord_iv : (s.withFetchWord nbits w).iv = s.iv := rfl
@[simp] theorem State.withFetchWord_ctr : (s.withFetchWord nbits w).ctr = s.ctr := rfl
@[simp] theorem State.withFetchWord_len : (s.withFetchWord nbits w).len = s.len := rfl
@[simp] theorem State.withFetchWord_din : (s.withFetchWord nbits w).din = s.din := rfl
@[simp] theorem State.withFetchWord_status : (s.withFetchWord nbits w).status = statusRunning := rfl
@[simp] theorem State.withFetchWord_olen : (s.withFetchWord nbits w).olen = s.olen := rfl
@[simp] theorem State.withFetchWord_dout : (s.withFetchWord nbits w).dout = s.dout := rfl
@[simp] theorem State.withFetchWord_phase : (s.withFetchWord nbits w).phase = .busy := rfl
@[simp] theorem State.withFetchWord_work : (s.withFetchWord nbits w).work = s.work := rfl
@[simp] theorem State.withFetchWord_maxLen : (s.withFetchWord nbits w).maxLen = s.maxLen := rfl
@[simp] theorem State.withFetchWord_script : (s.withFetchWord nbits w).script = .wait :: s.script := rfl
end

section
variable (s : State) (b : InBuf) (m : Memory)
@[simp] theorem State.setBuf_cmd : (s.setBuf b m).cmd = s.cmd := by cases b <;> rfl
@[simp] theorem State.setBuf_klen : (s.setBuf b m).klen = s.klen := by cases b <;> rfl
@[simp] theorem State.setBuf_nlen : (s.setBuf b m).nlen = s.nlen := by cases b <;> rfl
@[simp] theorem State.setBuf_ivlen : (s.setBuf b m).ivlen = s.ivlen := by cases b <;> rfl
@[simp] theorem State.setBuf_ctr : (s.setBuf b m).ctr = s.ctr := by cases b <;> rfl
@[simp] theorem State.setBuf_len : (s.setBuf b m).len = s.len := by cases b <;> rfl
@[simp] theorem State.setBuf_status : (s.setBuf b m).status = s.status := by cases b <;> rfl
@[simp] theorem State.setBuf_olen : (s.setBuf b m).olen = s.olen := by cases b <;> rfl
@[simp] theorem State.setBuf_dout : (s.setBuf b m).dout = s.dout := by cases b <;> rfl
@[simp] theorem State.setBuf_phase : (s.setBuf b m).phase = s.phase := by cases b <;> rfl
@[simp] theorem State.setBuf_work : (s.setBuf b m).work = s.work := by cases b <;> rfl
@[simp] theorem State.setBuf_maxLen : (s.setBuf b m).maxLen = s.maxLen := by cases b <;> rfl
@[simp] theorem State.setBuf_script : (s.setBuf b m).script = s.script := by cases b <;> rfl
@[simp] theorem State.buf_setBuf_same : (s.setBuf b m).buf b = m := by cases b <;> rfl
theorem State.buf_setBuf_other (c : InBuf) (h : c ≠ b) : (s.setBuf b m).buf c = s.buf c := by
  cases b <;> cases c <;> first | rfl | exact absurd rfl h
end

section
variable (s : State)
@[simp] theorem State.buf_key : s.buf .key = s.key := rfl
@[simp] theorem State.buf_nonce : s.buf .nonce = s.nonce := rfl
@[simp] theorem State.buf_iv : s.buf .iv = s.iv := rfl
@[simp] theorem State.buf_din : s.buf .din = s.din := rfl
end

section
variable (w : Work) (b : KeystreamBlock) (n : Nat)
@[simp] theorem Work.afterBlock_s : (w.afterBlock b n).s = b.s := rfl
@[simp] theorem Work.afterBlock_x : (w.afterBlock b n).x = b.x := rfl
@[simp] theorem Work.afterBlock_ctr : (w.afterBlock b n).ctr = w.ctr := rfl
@[simp] theorem Work.afterBlock_ks : (w.afterBlock b n).ks = b.ks := rfl
@[simp] theorem Work.afterBlock_v0 : (w.afterBlock b n).v0 = w.v0 := rfl
@[simp] theorem Work.afterBlock_v1 : (w.afterBlock b n).v1 = w.v1 := rfl
@[simp] theorem Work.afterBlock_sum : (w.afterBlock b n).sum = w.sum := rfl
@[simp] theorem Work.afterBlock_k : (w.afterBlock b n).k = w.k := rfl
@[simp] theorem Work.afterBlock_prev : (w.afterBlock b n).prev = w.prev := rfl
@[simp] theorem Work.afterBlock_blk : (w.afterBlock b n).blk = w.blk := rfl
@[simp] theorem Work.afterBlock_i : (w.afterBlock b n).i = w.i := rfl
@[simp] theorem Work.afterBlock_r : (w.afterBlock b n).r = n := rfl
end

section
variable (w : Work) (k : Vector Word 4) (h : Halves)
@[simp] theorem Work.afterHalves_s : (w.afterHalves k h).s = w.s := rfl
@[simp] theorem Work.afterHalves_x : (w.afterHalves k h).x = w.x := rfl
@[simp] theorem Work.afterHalves_ctr : (w.afterHalves k h).ctr = w.ctr := rfl
@[simp] theorem Work.afterHalves_ks : (w.afterHalves k h).ks = w.ks := rfl
@[simp] theorem Work.afterHalves_v0 : (w.afterHalves k h).v0 = h.v0 := rfl
@[simp] theorem Work.afterHalves_v1 : (w.afterHalves k h).v1 = h.v1 := rfl
@[simp] theorem Work.afterHalves_sum : (w.afterHalves k h).sum = h.sum := rfl
@[simp] theorem Work.afterHalves_k : (w.afterHalves k h).k = k := rfl
@[simp] theorem Work.afterHalves_prev : (w.afterHalves k h).prev = w.prev := rfl
@[simp] theorem Work.afterHalves_blk : (w.afterHalves k h).blk = w.blk := rfl
@[simp] theorem Work.afterHalves_i : (w.afterHalves k h).i = w.i := rfl
@[simp] theorem Work.afterHalves_r : (w.afterHalves k h).r = feistelRounds := rfl
end

/-! `STATUS`: the words an engine leaves in it, and their fields. -/

theorem statusRunning_eq : statusRunning = 0x01#8 := by decide
theorem statusSuccess_eq : statusSuccess = 0x02#8 := by decide
theorem statusFailure_eq (e : ErrKind) : statusFailure e = statusWord (errCode e) 2 false := rfl
@[simp] theorem statusBusy_running : statusBusy statusRunning = true := by decide
@[simp] theorem statusBusy_success : statusBusy statusSuccess = false := by decide
@[simp] theorem statusBusy_failure (e : ErrKind) : statusBusy (statusFailure e) = false := by
  cases e <;> decide
@[simp] theorem statusTag_running : statusTag statusRunning = 0 := by decide
@[simp] theorem statusTag_success : statusTag statusSuccess = 1 := by decide
@[simp] theorem statusTag_failure (e : ErrKind) : statusTag (statusFailure e) = 2 := by
  cases e <;> decide
@[simp] theorem statusErr_running : statusErr statusRunning = 0 := by decide
@[simp] theorem statusErr_success : statusErr statusSuccess = 0 := by decide
@[simp] theorem statusErr_failure (e : ErrKind) : statusErr (statusFailure e) = errCode e := by
  cases e <;> decide
theorem errCode_injective (a b : ErrKind) (h : errCode a = errCode b) : a = b := by
  cases a <;> cases b <;> first | rfl | exact absurd h (by decide)

end Sys2Proof.Machine
end

