-- ==== Sys2Proof/Laws/Ops.lean ====
section
/-! SUPPORT. What each shared operation can do, said once, and what follows for exec and step: a command
that answers a next state has failed or has succeeded, and nothing else. -/

namespace Sys2Proof.Machine

@[simp] theorem add32_eq (a b : Word) : add32 a b = a + b := rfl
@[simp] theorem sub32_eq (a b : Word) : sub32 a b = a - b := rfl

/-- Everything that validation can do. -/
theorem State.checked_cases (s : State) (checks : List (Bool × ErrKind)) (body : Unit → StepResult) :
    (∃ e, firstFailure checks = some e ∧ s.checked checks body = .next (s.raise e)) ∨
      (firstFailure checks = none ∧ s.checked checks body = body ()) := by
  unfold State.checked
  cases h : firstFailure checks with
  | none => exact .inr ⟨rfl, rfl⟩
  | some e => exact .inl ⟨e, rfl, rfl⟩

/-- Everything that an operand read can do. -/
theorem State.reading_cases (s : State) (b : InBuf) (n : Nat) (body : List Byte → StepResult) :
    (∃ bs, Memory.readBytes (s.buf b) 0 n = some bs ∧ s.reading b n body = body bs) ∨
      (Memory.readBytes (s.buf b) 0 n = none ∧ s.reading b n body = .refused (.unwrittenByte b)) := by
  unfold State.reading
  cases h : Memory.readBytes (s.buf b) 0 n with
  | none => exact .inr ⟨rfl, rfl⟩
  | some bs => exact .inl ⟨bs, rfl, rfl⟩

/-- A validation with no violated check runs the body. -/
theorem State.checked_of_none (s : State) (checks : List (Bool × ErrKind)) (body : Unit → StepResult)
    (h : firstFailure checks = none) : s.checked checks body = body () := by
  simp [State.checked, h]

/-- A validation whose first violated check is `e` ends in the failure outcome of `e`. -/
theorem State.checked_of_some (s : State) (checks : List (Bool × ErrKind)) (body : Unit → StepResult)
    (e : ErrKind) (h : firstFailure checks = some e) : s.checked checks body = .next (s.raise e) := by
  simp [State.checked, h]

/-- An operand read with every byte written runs the body on those bytes. -/
theorem State.reading_of_some (s : State) (b : InBuf) (n : Nat) (body : List Byte → StepResult)
    (bs : List Byte) (h : Memory.readBytes (s.buf b) 0 n = some bs) : s.reading b n body = body bs := by
  simp [State.reading, h]

/-- Everything that a host read of `DOUT` can answer. -/
theorem State.read_visibleDout (s : State) (a : Nat) :
    Memory.read s.visibleDout a =
      if statusTag s.status = 1 ∧ a < s.olen then Memory.read s.dout a else none := by
  unfold State.visibleDout
  by_cases h : statusTag s.status = 1
  · rw [if_pos h, Memory.read_filter s.dout (fun c => decide (c < s.olen))]
    simp only [h, true_and, decide_eq_true_eq]
  · rw [if_neg h, if_neg fun h' => h h'.1]
    rfl

/-- What an ended command answers: the failure outcome of a kind, the success outcome of a result, or a
refusal because an operand byte has no value. -/
def State.Ended (s : State) (o : StepResult) : Prop :=
  (∃ e, o = .next (s.raise e)) ∨ (∃ out w, o = .next (s.succeed out w)) ∨
    ∃ b, o = .refused (.unwrittenByte b)

theorem State.ended_raise (s : State) (e : ErrKind) : s.Ended (.next (s.raise e)) := .inl ⟨e, rfl⟩

theorem State.ended_succeed (s : State) (out : List Byte) (w : Work) :
    s.Ended (.next (s.succeed out w)) := .inr (.inl ⟨out, w, rfl⟩)

theorem State.ended_checked (s : State) (checks : List (Bool × ErrKind)) (body : Unit → StepResult)
    (h : s.Ended (body ())) : s.Ended (s.checked checks body) := by
  rcases s.checked_cases checks body with ⟨e, -, he⟩ | ⟨-, he⟩ <;> rw [he]
  · exact s.ended_raise e
  · exact h

theorem State.ended_reading (s : State) (b : InBuf) (n : Nat) (body : List Byte → StepResult)
    (h : ∀ bs, s.Ended (body bs)) : s.Ended (s.reading b n body) := by
  rcases s.reading_cases b n body with ⟨bs, -, he⟩ | ⟨-, he⟩ <;> rw [he]
  · exact h bs
  · exact .inr (.inr ⟨b, rfl⟩)

theorem State.ended_runBlock (s : State) (halves : Vector Word 4 → Block → Halves) :
    s.Ended (s.runBlock halves) :=
  s.ended_reading _ _ _ fun _ => s.ended_reading _ _ _ fun _ => s.ended_succeed _ _

theorem State.ended_runInd (s : State) (halves : Vector Word 4 → Block → Halves) :
    s.Ended (s.runInd halves) :=
  s.ended_reading _ _ _ fun _ => s.ended_reading _ _ _ fun _ => s.ended_succeed _ _

theorem State.ended_runChnEnc (s : State) (halves : Vector Word 4 → Block → Halves) :
    s.Ended (s.runChnEnc halves) :=
  s.ended_reading _ _ _ fun _ => s.ended_reading _ _ _ fun _ => s.ended_reading _ _ _ fun _ =>
    s.ended_succeed _ _

theorem State.ended_runChnDec (s : State) (halves : Vector Word 4 → Block → Halves) :
    s.Ended (s.runChnDec halves) :=
  s.ended_reading _ _ _ fun _ => s.ended_reading _ _ _ fun _ => s.ended_reading _ _ _ fun _ =>
    s.ended_succeed _ _

/-- Everything that an operation can do. -/
theorem exec_ended (i : Instr) (s : State) : s.Ended (exec i s) := by
  cases i with
  | rfcBlk =>
    simp only [exec, execRfcBlk]
    refine s.ended_checked _ _ ?_
    exact s.ended_reading _ _ _ fun _ => s.ended_reading _ _ _ fun _ => s.ended_succeed _ _
  | rfcXor =>
    simp only [exec, execRfcXor]
    refine s.ended_checked _ _ ?_
    exact s.ended_reading _ _ _ fun _ => s.ended_reading _ _ _ fun _ => s.ended_reading _ _ _ fun _ =>
      s.ended_succeed _ _
  | estBlk =>
    simp only [exec, execEstBlk]
    split
    · exact s.ended_raise _
    · refine s.ended_checked _ _ ?_
      exact s.ended_reading _ _ _ fun _ => s.ended_reading _ _ _ fun _ => s.ended_succeed _ _
  | estXor =>
    simp only [exec, execEstXor]
    split
    · exact s.ended_raise _
    · refine s.ended_checked _ _ ?_
      exact s.ended_reading _ _ _ fun _ => s.ended_reading _ _ _ fun _ => s.ended_reading _ _ _ fun _ =>
        s.ended_succeed _ _
  | faEnc | faDec | fbEnc | fbDec =>
    simp only [exec, execFaEnc, execFaDec, execFbEnc, execFbDec]
    refine s.ended_checked _ _ ?_
    exact s.ended_runBlock _
  | faIndEnc | faIndDec | fbIndEnc | fbIndDec =>
    simp only [exec, execFaIndEnc, execFaIndDec, execFbIndEnc, execFbIndDec]
    refine s.ended_checked _ _ ?_
    exact s.ended_runInd _
  | faChnEnc | fbChnEnc =>
    simp only [exec, execFaChnEnc, execFbChnEnc]
    refine s.ended_checked _ _ ?_
    exact s.ended_runChnEnc _
  | faChnDec | fbChnDec =>
    simp only [exec, execFaChnDec, execFbChnDec]
    refine s.ended_checked _ _ ?_
    exact s.ended_runChnDec _

/-- The inversion of exec: a next state is the failure outcome of a kind or the success outcome of a
result. -/
theorem exec_next_cases (i : Instr) (s t : State) (h : exec i s = .next t) :
    (∃ e, t = s.raise e) ∨ ∃ out w, t = s.succeed out w := by
  rcases exec_ended i s with ⟨e, he⟩ | ⟨out, w, he⟩ | ⟨b, he⟩ <;> rw [he] at h <;> cases h
  · exact .inl ⟨e, rfl⟩
  · exact .inr ⟨out, w, rfl⟩

/-- A rejected word ends in a failure outcome. -/
theorem State.rejectCommand_cases (s : State) (e : DecodeError) :
    s.rejectCommand e = s.raise .illegalCommand ∨ s.rejectCommand e = s.raise .unsupportedMode := by
  cases e with
  | unknownMode =>
    by_cases h : s.maxLen < s.len
    · exact .inl (by simp [State.rejectCommand, h])
    · exact .inr (by simp [State.rejectCommand, h, decodeErrorKind])
  | reservedBits | reservedAlg | reservedFn | reservedRnd => exact .inl rfl

/-- The inversion of a running command. -/
theorem State.runCommand_next_cases (s t : State) (h : s.runCommand = .next t) :
    (∃ e, t = s.raise e) ∨ ∃ out w, t = s.succeed out w := by
  unfold State.runCommand at h
  cases hd : decode s.fetch with
  | ok i => rw [hd] at h; exact exec_next_cases i s t h
  | reject e =>
    rw [hd] at h
    cases h
    rcases s.rejectCommand_cases e with he | he <;> rw [he]
    · exact .inl ⟨_, rfl⟩
    · exact .inl ⟨_, rfl⟩

/-- Everything that a step can do: stay idle, complete the running command, or let the host's next action
happen. -/
theorem step_cases (s : State) :
    (s.script = [] ∧ s.phase = .idle ∧ step s = .next s) ∨
    (s.phase = .busy ∧ (s.script = [] ∨ ∃ rest, s.script = .wait :: rest) ∧ step s = s.runCommand) ∨
    (∃ a rest, s.script = a :: rest ∧ ¬ (s.phase = .busy ∧ a = .wait) ∧
      step s = State.hostAct { s with script := rest } a) := by
  unfold step State.advance
  cases hs : s.script with
  | nil =>
    cases hp : s.phase with
    | idle => exact .inl ⟨rfl, rfl, rfl⟩
    | busy => exact .inr (.inl ⟨rfl, .inl rfl, rfl⟩)
  | cons a rest =>
    by_cases h : s.phase = .busy ∧ a = .wait
    · exact .inr (.inl ⟨h.1, .inr ⟨rest, by rw [h.2]⟩, by simp [h]⟩)
    · exact .inr (.inr ⟨a, rest, rfl, h, by simp [h]⟩)

/-- Everything that a host write can do. -/
theorem State.hostWrite_bytes_cases (s : State) (b : InBuf) (off : Nat) (bs : List Byte) :
    (off + bs.length ≤ s.extent b ∧
      s.hostWrite (.bytes b off bs) = .next (s.setBuf b (Memory.writeBytes (s.buf b) off bs))) ∨
    (s.extent b < off + bs.length ∧ s.hostWrite (.bytes b off bs) = .fault (.outsideBuffer b)) := by
  by_cases h : off + bs.length ≤ s.extent b
  · exact .inl ⟨h, by simp [State.hostWrite, h]⟩
  · exact .inr ⟨by omega, by simp [State.hostWrite, h]⟩

end Sys2Proof.Machine
end

