-- ==== Sys2Proof/Laws/PerInstr.lean ====
section
/-! SUPPORT. The family EncodeMatchesRow: the encoder writes, for every field value, a word that matches the
operation's row of R91. -/

namespace Sys2Proof.Laws.EncodeMatchesRow

-- Theorem after theorem: side by side, the kernel evaluations below take a thread each.
set_option Elab.async false

/-- The encoded word of `i` matches the row of `i` (R91). -/
def Statement (i : Sys2Proof.Instr) : Prop :=
  Sys2Proof.encode i &&& Sys2Proof.rowMask i = Sys2Proof.rowMatch i

theorem rfcBlk (dir : Bool) (mode rnd : BitVec 2) (ivp np : Bool) : Statement (.rfcBlk dir mode rnd ivp np) := by
  unfold Statement; revert dir mode rnd ivp np; decide +kernel

theorem rfcXor (dir : Bool) (mode rnd : BitVec 2) (ivp np : Bool) : Statement (.rfcXor dir mode rnd ivp np) := by
  unfold Statement; revert dir mode rnd ivp np; decide +kernel

theorem estBlk (dir : Bool) (mode rnd : BitVec 2) (ivp np : Bool) : Statement (.estBlk dir mode rnd ivp np) := by
  unfold Statement; revert dir mode rnd ivp np; decide +kernel

theorem estXor (dir : Bool) (mode rnd : BitVec 2) (ivp np : Bool) : Statement (.estXor dir mode rnd ivp np) := by
  unfold Statement; revert dir mode rnd ivp np; decide +kernel

theorem faEnc (mode rnd : BitVec 2) (ivp np : Bool) : Statement (.faEnc mode rnd ivp np) := by
  unfold Statement; revert mode rnd ivp np; decide +kernel

theorem faDec (mode rnd : BitVec 2) (ivp np : Bool) : Statement (.faDec mode rnd ivp np) := by
  unfold Statement; revert mode rnd ivp np; decide +kernel

theorem fbEnc (mode rnd : BitVec 2) (ivp np : Bool) : Statement (.fbEnc mode rnd ivp np) := by
  unfold Statement; revert mode rnd ivp np; decide +kernel

theorem fbDec (mode rnd : BitVec 2) (ivp np : Bool) : Statement (.fbDec mode rnd ivp np) := by
  unfold Statement; revert mode rnd ivp np; decide +kernel

theorem faIndEnc (rnd : BitVec 2) (ivp np : Bool) : Statement (.faIndEnc rnd ivp np) := by
  unfold Statement; revert rnd ivp np; decide +kernel

theorem faIndDec (rnd : BitVec 2) (ivp np : Bool) : Statement (.faIndDec rnd ivp np) := by
  unfold Statement; revert rnd ivp np; decide +kernel

theorem faChnEnc (rnd : BitVec 2) (ivp np : Bool) : Statement (.faChnEnc rnd ivp np) := by
  unfold Statement; revert rnd ivp np; decide +kernel

theorem faChnDec (rnd : BitVec 2) (ivp np : Bool) : Statement (.faChnDec rnd ivp np) := by
  unfold Statement; revert rnd ivp np; decide +kernel

theorem fbIndEnc (rnd : BitVec 2) (ivp np : Bool) : Statement (.fbIndEnc rnd ivp np) := by
  unfold Statement; revert rnd ivp np; decide +kernel

theorem fbIndDec (rnd : BitVec 2) (ivp np : Bool) : Statement (.fbIndDec rnd ivp np) := by
  unfold Statement; revert rnd ivp np; decide +kernel

theorem fbChnEnc (rnd : BitVec 2) (ivp np : Bool) : Statement (.fbChnEnc rnd ivp np) := by
  unfold Statement; revert rnd ivp np; decide +kernel

theorem fbChnDec (rnd : BitVec 2) (ivp np : Bool) : Statement (.fbChnDec rnd ivp np) := by
  unfold Statement; revert rnd ivp np; decide +kernel

end Sys2Proof.Laws.EncodeMatchesRow
end

