-- ==== Sys2Proof/Tests/Slice0.lean ====
section
/-! SUPPORT. Small tests of single steps, their expected values from spec/95_test_vectors.md (the vector's
number in each docstring), and for every statement with hypotheses a witness that meets them. -/

namespace Sys2Proof.Tests

open Sys2Proof Sys2Proof.Machine

-- Theorem after theorem: side by side, the kernel evaluations below take a thread each.
set_option Elab.async false

/-! ### Well-formedness and the command word -/

/-- The one check of well-formedness refuses `RND = 3` with `EST`, and with `EST` only (R93). -/
theorem test_wellFormed_refuses_reserved_rnd :
    (Instr.estBlk false 0 3 false true).wellFormed = false ∧
    (Instr.estXor false 0 3 false true).wellFormed = false ∧
    (Instr.estXor false 3 2 true false).wellFormed = true ∧
    (Instr.rfcXor false 0 3 false true).wellFormed = true := by decide

/-- V15: the words of the ARX operations. -/
theorem test_decode_arx :
    decode 0x00002000 = .ok (.rfcBlk false 0 0 false true) ∧
    decode 0x00002c00 = .ok (.rfcBlk false 0 3 false true) ∧
    decode 0x00002340 = .ok (.rfcBlk true 3 0 false true) ∧
    decode 0x00002010 = .ok (.rfcXor false 0 0 false true) ∧
    decode 0x00002050 = .ok (.rfcXor true 0 0 false true) ∧
    decode 0x00002001 = .ok (.estBlk false 0 0 false true) ∧
    decode 0x00002401 = .ok (.estBlk false 0 1 false true) ∧
    decode 0x00002811 = .ok (.estXor false 0 2 false true) := by decide

/-- V15: the words of the single-block operations. -/
theorem test_decode_single_block :
    decode 0x00000002 = .ok (.faEnc 0 0 false false) ∧
    decode 0x00000302 = .ok (.faEnc 3 0 false false) ∧
    decode 0x00000042 = .ok (.faDec 0 0 false false) ∧
    decode 0x00000003 = .ok (.fbEnc 0 0 false false) ∧
    decode 0x00000043 = .ok (.fbDec 0 0 false false) := by decide

/-- V15: the words of the block modes. -/
theorem test_decode_block_modes :
    decode 0x00000012 = .ok (.faIndEnc 0 false false) ∧
    decode 0x00000052 = .ok (.faIndDec 0 false false) ∧
    decode 0x00001112 = .ok (.faChnEnc 0 true false) ∧
    decode 0x00000112 = .ok (.faChnEnc 0 false false) ∧
    decode 0x00001152 = .ok (.faChnDec 0 true false) ∧
    decode 0x00000013 = .ok (.fbIndEnc 0 false false) ∧
    decode 0x00000053 = .ok (.fbIndDec 0 false false) ∧
    decode 0x00003113 = .ok (.fbChnEnc 0 true true) ∧
    decode 0x00001153 = .ok (.fbChnDec 0 true false) := by decide

/-- V15: the words that fail. -/
theorem test_decode_rejects :
    decode 0x00000212 = .reject .unknownMode ∧ decode 0x00000353 = .reject .unknownMode ∧
    decode 0x00002c01 = .reject .reservedRnd ∧ decode 0x00000080 = .reject .reservedBits ∧
    decode 0x00004000 = .reject .reservedBits ∧ decode 0x00000004 = .reject .reservedAlg ∧
    decode 0x00000022 = .reject .reservedFn ∧ decode 0xffffffff = .reject .reservedBits := by decide

/-- The opcode table's words through the host's function. -/
theorem test_decodeTableWord :
    decodeTableWord 32 0x12 = some (.faIndEnc 0 false false) ∧ decodeTableWord 32 0x92 = none ∧
    decodeTableWord 32 (2 ^ 32) = none ∧ decodeTableWord 64 0x12 = none := by decide

/-! ### One command, run by one step -/

/-- The `n` bytes of a number, most significant first: `bytes 2 0x0a3f` is the byte sequence `0a3f`. -/
def bytes (n v : Nat) : List Byte :=
  (List.range n).map fun i => BitVec.ofNat 8 (v / 2 ^ (8 * (n - 1 - i)))

/-- A started command with the given operands, the host waiting for it. -/
def started (cmd : BitVec 32) (key nonce iv d : List Byte) (ctr : Word) : State :=
  { State.reset with
    cmd := cmd, ctr := ctr
    klen := BitVec.ofNat 8 key.length, key := Memory.writeBytes [] 0 key
    nlen := BitVec.ofNat 8 nonce.length, nonce := Memory.writeBytes [] 0 nonce
    ivlen := BitVec.ofNat 8 iv.length, iv := Memory.writeBytes [] 0 iv
    len := d.length, din := Memory.writeBytes [] 0 d
    phase := .busy, status := statusRunning, script := [.wait] }

/-- `STATUS`, `OLEN`, and the `n` output bytes from `off` on, after one step. -/
def outcome (o : StepResult) (off n : Nat) : Option (BitVec 8 × Nat × Option (List Byte)) :=
  match o with
  | .next t => some (t.status, t.olen, Memory.readBytes t.dout off n)
  | _ => none

/-- The key bytes `00 01 02 …`, used throughout spec/95_test_vectors.md. -/
def countingKey (n : Nat) : List Byte := (List.range n).map (BitVec.ofNat 8)

/-- V2: `RFC.BLK` at counter 1, its last four keystream bytes. -/
theorem test_rfcBlk :
    outcome (step (started 0x2000 (countingKey 32) (bytes 12 0x000000090000004a00000000) [] [] 1)) 60 4 =
      some (0x02, 64, some (bytes 4 0xa2503c4e)) := by decide +kernel

/-- V5: `RFC.XOR` of one byte, in the decrypt spelling. -/
theorem test_rfcXor :
    outcome (step (started 0x2050 (countingKey 32) (bytes 12 0x000000000000004a00000000) []
      [0x03] 0)) 0 1 = some (0x02, 1, some [0xac]) := by decide +kernel

/-- V7: `EST.BLK`, 8 rounds, a 16-byte key `80 00 …`. -/
theorem test_estBlk :
    outcome (step (started 0x2801 (bytes 16 (2 ^ 127)) (bytes 8 0) [] [] 0)) 60 4 =
      some (0x02, 64, some (bytes 4 0x2218ddc5)) := by decide +kernel

/-- V13: `EST.XOR`, 8 rounds, the first byte of the message. -/
theorem test_estXor :
    outcome (step (started 0x2811 (countingKey 16) (bytes 8 0x0001020304050607) [] [0x54] 0)) 0 1 =
      some (0x02, 1, some [0x8b]) := by decide +kernel

/-- V9: `FA.ENC`. -/
theorem test_faEnc :
    outcome (step (started 0x02 (bytes 16 0x00112233445566778899aabbccddeeff) [] []
      (bytes 8 0x0123456789abcdef) 0)) 0 8 = some (0x02, 8, some (bytes 8 0x126c6b92c0653a3e)) := by
  decide +kernel

/-- V9: `FA.DEC` on plaintext-like input. -/
theorem test_faDec :
    outcome (step (started 0x42 (countingKey 16) [] [] (bytes 8 0x4141414141414141) 0)) 0 8 =
      some (0x02, 8, some (bytes 8 0xf16e25e4d51e4bc8)) := by decide +kernel

/-- V10: `FB.ENC`. -/
theorem test_fbEnc :
    outcome (step (started 0x03 (bytes 16 0x00112233445566778899aabbccddeeff) [] []
      (bytes 8 0x0123456789abcdef) 0)) 0 8 = some (0x02, 8, some (bytes 8 0xb8bf2821622b5b30)) := by
  decide +kernel

/-- V10: `FB.DEC`. -/
theorem test_fbDec :
    outcome (step (started 0x43 (countingKey 16) [] [] (bytes 8 0x4141414141414141) 0)) 0 8 =
      some (0x02, 8, some (bytes 8 0x5a5b6e278948d77f)) := by decide +kernel

/-- V12: `FA.IND.ENC` of 13 bytes gives 16. -/
theorem test_faIndEnc :
    outcome (step (started 0x12 (countingKey 16) [] [] (bytes 13 0x48656c6c6f2c20776f726c6421) 0)) 8 8 =
      some (0x02, 16, some (bytes 8 0xff0bce89ca5c948e)) := by decide +kernel

/-- V12: `FA.IND.DEC` keeps the pad. -/
theorem test_faIndDec :
    outcome (step (started 0x52 (countingKey 16) [] []
      (bytes 16 0x0e5ed55ede526103ff0bce89ca5c948e) 0)) 8 8 =
      some (0x02, 16, some (bytes 8 0x6f726c6421000000)) := by decide +kernel

/-- P2: `FA.CHN.ENC`, the second of two blocks. -/
theorem test_faChnEnc :
    outcome (step (started 0x1112 (countingKey 16) [] (bytes 8 0x0123456789abcdef)
      (bytes 16 0x41424344454647484142434445464748) 0)) 8 8 =
      some (0x02, 16, some (bytes 8 0xf3c2c088ac302955)) := by decide +kernel

/-- P2: `FA.CHN.DEC`, the second of two blocks. -/
theorem test_faChnDec :
    outcome (step (started 0x1152 (countingKey 16) [] (bytes 8 0x0123456789abcdef)
      (bytes 16 0xc3715acff77edd4bf3c2c088ac302955) 0)) 8 8 =
      some (0x02, 16, some (bytes 8 0x4142434445464748)) := by decide +kernel

/-- V12: `FB.IND.ENC` of one byte. -/
theorem test_fbIndEnc :
    outcome (step (started 0x13 (countingKey 16) [] [] [0x41] 0)) 0 8 =
      some (0x02, 8, some (bytes 8 0xb260e012557cc58e)) := by decide +kernel

/-- V12: `FB.IND.DEC` of a ciphertext cut short: its last block. -/
theorem test_fbIndDec :
    outcome (step (started 0x53 (countingKey 16) [] [] (bytes 13 0xa78bf0e94438309c5cdf78aa4d) 0)) 8 8 =
      some (0x02, 16, some (bytes 8 0xcabfcd88f5032d6f)) := by decide +kernel

/-- V12: `FB.CHN.ENC` of one byte: the pad is XORed with the IV. -/
theorem test_fbChnEnc :
    outcome (step (started 0x1113 (countingKey 16) [] (bytes 8 0x0123456789abcdef) [0x41] 0)) 0 8 =
      some (0x02, 8, some (bytes 8 0xce23cdc120905b08)) := by decide +kernel

/-- V12: `FB.CHN.DEC` of a ciphertext cut short: its last block. -/
theorem test_fbChnDec :
    outcome (step (started 0x1153 (countingKey 16) [] (bytes 8 0x0123456789abcdef)
      (bytes 13 0x9390bdbbd4ac876f5087f0e9c7) 0)) 8 8 =
      some (0x02, 16, some (bytes 8 0x9b38b83420eddd6f)) := by decide +kernel

/-- V14, the priority table and its single errors: one command for each reported kind, several conditions
broken at once in the first three. -/
theorem test_error_priority :
    ([started 0x0212 (bytes 15 0) [] [] (bytes 8 0) 0,
      started 0x1112 (bytes 15 0) [] (bytes 7 0) (bytes 8 0) 0,
      started 0x0002 (bytes 15 0) [] [] (bytes 7 0) 0,
      started 0x0112 (bytes 16 0) [] [] [] 0,
      started 0x1112 (bytes 16 0) [] (bytes 9 0) (bytes 8 0) 0,
      started 0x0011 (bytes 32 0) [] [] (bytes 5 0) 0,
      started 0x2010 (bytes 32 0) (bytes 13 0) [] (bytes 5 0) 0].map
        fun s => (outcome (step s) 0 0).map Prod.fst) =
      [some 0x64, some 0x14, some 0xf4, some 0x44, some 0x24, some 0x54, some 0x34] := by
  decide +kernel

/-- The first step after reset with a command word in place runs it: with `KLEN = 0` every operation ends
with an error kind of its own validation (U9 on registers, notes/assumptions/1.md). -/
theorem test_first_step_after_reset :
    outcome (step (State.reset.withFetchWord 32 0x10)) 0 0 = some (0x14, 0, some []) ∧
    outcome (step (State.reset.withFetchWord 32 0x02)) 0 0 = some (0xf4, 0, some []) := by decide +kernel

/-- R14: a single block fails with `IllegalCommand` when `MAX_LEN` is one below its length, and runs when it is
equal to it (V9). -/
theorem test_single_block_against_maxLen :
    let s := started 0x02 (bytes 16 0x00112233445566778899aabbccddeeff) [] []
      (bytes 8 0x0123456789abcdef) 0
    outcome (step { s with maxLen := 7 }) 0 0 = some (0xf4, 0, some []) ∧
    outcome (step { s with maxLen := 8 }) 0 8 = some (0x02, 8, some (bytes 8 0x126c6b92c0653a3e)) := by
  decide +kernel

/-- P4, the first command: the failure leaves no output and the engine idle, the wait still pending. -/
theorem test_failure_outcome :
    (match step (started 0x0112 (countingKey 16) [] [] (bytes 14 0) 0) with
      | .next t => (t.phase, t.status, t.olen, t.dout, t.script) == (.idle, 0x44, 0, [], [.wait])
      | .fault _ => false
      | .refused _ => false) = true := by decide +kernel

/-! ### Witnesses: the hypotheses of each statement are met together -/

theorem Holds_of_decide (m : Memory) (bs : List Byte)
    (h : (List.range bs.length).all (fun j => Memory.read m j == bs[j]?) = true) : Memory.Holds m bs :=
  fun j hj => by simpa using List.all_eq_true.mp h j (List.mem_range.mpr hj)

/-- DecodeOfEncode, at the last legal round count. -/
theorem witness_DecodeOfEncode : (Instr.estXor true 3 2 true true).wellFormed = true := by decide

/-- EncodeOfDecode, and the first clause of DecodeSelectsMatchingRow. -/
theorem witness_EncodeOfDecode :
    decode 0x00002811 = .ok (.estXor false 0 2 false true) := by decide

/-- DecodeSelectsMatchingRow, its second clause in both of its cases. -/
theorem witness_DecodeSelectsMatchingRow :
    (0x00002811 : BitVec 32) &&& rowMask (.estXor false 0 0 false false) =
      rowMatch (.estXor false 0 0 false false) ∧
    (0x00002c11 : BitVec 32) &&& rowMask (.estXor false 0 0 false false) =
      rowMatch (.estXor false 0 0 false false) := by decide

/-- ReservedWordsAreRejected: a word for each of its five kinds, and at each field's boundary one that is
of none. -/
theorem witness_ReservedWordsAreRejected :
    decode 0x00004000 = .reject .reservedBits ∧ decode 0x00000004 = .reject .reservedAlg ∧
    decode 0x00000023 = .reject .reservedFn ∧ decode 0x00000c01 = .reject .reservedRnd ∧
    decode 0x00000213 = .reject .unknownMode ∧
    decode 0x00003b53 = .reject .unknownMode ∧
    decode 0x00003953 = .ok (.fbChnDec 2 true true) := by decide

/-- StepRunsDecodedCommand: a ready state whose word decodes, with a wait pending and with nothing
pending. -/
theorem witness_StepRunsDecodedCommand :
    (started 0x02 [] [] [] [] 0).Ready ∧
    State.Ready { started 0x02 [] [] [] [] 0 with script := [] } ∧
    decode (started 0x02 [] [] [] [] 0).cmd = .ok (.faEnc 0 0 false false) ∧
    decode (BitVec.ofNat 32 0x53) = .ok (.fbIndDec 0 false false) :=
  ⟨⟨rfl, .inr rfl⟩, ⟨rfl, .inl rfl⟩, by decide, by decide⟩

/-- FirstFailingCheckIsReported: a ready state for each kind, each at a boundary of its check. -/
theorem witness_FirstFailingCheckIsReported :
    (started 0x0002 (bytes 16 0) [] [] (bytes 9 0) 0).Ready ∧
    (started 0x0002 (bytes 16 0) [] [] (bytes 9 0) 0).firstError = some .illegalCommand ∧
    State.firstError { started 0x0212 [] [] [] [] 0 with len := 2 ^ 38 + 1 } = some .illegalCommand ∧
    State.firstError { started 0x0212 [] [] [] [] 0 with len := 2 ^ 38 } = some .unsupportedMode ∧
    (started 0x0112 (bytes 17 0) [] [] [] 0).firstError = some .invalidKeyLength ∧
    (started 0x0010 (bytes 32 0) [] [] [] 0).firstError = some .missingNonce ∧
    (started 0x0112 (bytes 16 0) [] [] [] 0).firstError = some .missingIV ∧
    (started 0x2011 (bytes 16 0) (bytes 7 0) [] [] 0).firstError = some .invalidNonceLength ∧
    (started 0x1112 (bytes 16 0) [] (bytes 9 0) [] 0).firstError = some .invalidIvLength :=
  ⟨⟨rfl, .inr rfl⟩, by decide +kernel, by decide +kernel, by decide +kernel, by decide +kernel,
    by decide +kernel, by decide +kernel, by decide +kernel, by decide +kernel⟩

/-- A command that passes every check, its operands written. -/
def validChain : State :=
  started 0x1112 (countingKey 16) [] (bytes 8 1) (bytes 9 2) 0

/-- CommandWithoutFailingCheckSucceeds, and the second clause of RefusedOnlyForUnwrittenOperands. -/
theorem witness_CommandWithoutFailingCheckSucceeds :
    validChain.Ready ∧ validChain.firstError = none ∧ validChain.OperandsWritten := by
  refine ⟨⟨rfl, .inr rfl⟩, by decide +kernel, ?_⟩
  unfold State.OperandsWritten
  decide +kernel

/-- RefusedOnlyForUnwrittenOperands: a command whose last input byte was never written. -/
theorem witness_RefusedOnlyForUnwrittenOperands :
    State.Ready { validChain with len := 10 } ∧
    State.firstError { validChain with len := 10 } = none ∧
    ¬ State.OperandsWritten { validChain with len := 10 } := by
  refine ⟨⟨rfl, .inr rfl⟩, by decide +kernel, ?_⟩
  unfold State.OperandsWritten
  decide +kernel

/-- RfcBlkResult and RfcXorResult (with one byte more than a block), met together. -/
theorem witness_RfcResults :
    let s := started 0x2010 (countingKey 32) (bytes 12 5) [] (countingKey 65) 0xffffffff
    s.klen = 32 ∧ (countingKey 32).length = 32 ∧ Memory.Holds s.key (countingKey 32) ∧
    s.nlen = 12 ∧ (bytes 12 5).length = 12 ∧ Memory.Holds s.nonce (bytes 12 5) ∧
    (countingKey 65).length = s.len ∧ Memory.Holds s.din (countingKey 65) ∧ s.len ≤ s.maxLen :=
  ⟨by decide +kernel, by decide, Holds_of_decide _ _ (by decide +kernel), by decide +kernel, by decide,
    Holds_of_decide _ _ (by decide +kernel), by decide +kernel, Holds_of_decide _ _ (by decide +kernel),
    by decide +kernel⟩

/-- EstBlkResult and EstXorResult, with a 16-byte key. -/
theorem witness_EstResults :
    let s := started 0x2811 (countingKey 16) (bytes 8 5) [] (countingKey 1) 0
    estRounds 2 = some 8 ∧ (s.klen = 16 ∨ s.klen = 32) ∧
    (countingKey 16).length = s.klen.toNat ∧ Memory.Holds s.key (countingKey 16) ∧
    s.nlen = 8 ∧ (bytes 8 5).length = 8 ∧ Memory.Holds s.nonce (bytes 8 5) ∧
    (countingKey 1).length = s.len ∧ Memory.Holds s.din (countingKey 1) ∧ s.len ≤ s.maxLen :=
  ⟨by decide, by decide +kernel, by decide +kernel, Holds_of_decide _ _ (by decide +kernel),
    by decide +kernel, by decide, Holds_of_decide _ _ (by decide +kernel), by decide +kernel,
    Holds_of_decide _ _ (by decide +kernel), by decide +kernel⟩

/-- EstBlkResult and EstXorResult, with a 32-byte key. -/
theorem witness_EstResults_longKey :
    let s := started 0x2811 (countingKey 32) (bytes 8 5) [] (countingKey 1) 0
    estRounds 2 = some 8 ∧ (s.klen = 16 ∨ s.klen = 32) ∧
    (countingKey 32).length = s.klen.toNat ∧ Memory.Holds s.key (countingKey 32) ∧
    s.nlen = 8 ∧ (bytes 8 5).length = 8 ∧ Memory.Holds s.nonce (bytes 8 5) ∧
    (countingKey 1).length = s.len ∧ Memory.Holds s.din (countingKey 1) ∧ s.len ≤ s.maxLen :=
  ⟨by decide, by decide +kernel, by decide +kernel, Holds_of_decide _ _ (by decide +kernel),
    by decide +kernel, by decide, Holds_of_decide _ _ (by decide +kernel), by decide +kernel,
    Holds_of_decide _ _ (by decide +kernel), by decide +kernel⟩

/-- SingleBlockResults. -/
theorem witness_SingleBlockResults :
    let s := started 0x02 (countingKey 16) [] [] (bytes 8 7) 0
    s.klen = 16 ∧ (countingKey 16).length = 16 ∧ Memory.Holds s.key (countingKey 16) ∧
    s.len = 8 ∧ s.len ≤ s.maxLen ∧ (bytes 8 7).length = 8 ∧ Memory.Holds s.din (bytes 8 7) :=
  ⟨by decide +kernel, by decide, Holds_of_decide _ _ (by decide +kernel), by decide +kernel,
    by decide +kernel, by decide, Holds_of_decide _ _ (by decide +kernel)⟩

/-- InputLongerThanMaxLenFails: a single block with `MAX_LEN` one below its length, and a message one byte
longer than the largest `MAX_LEN`. -/
theorem witness_InputLongerThanMaxLenFails :
    let s := { started 0x02 (countingKey 16) [] [] (bytes 8 7) 0 with maxLen := 7 }
    let m := { started 0x2010 [] [] [] [] 0 with len := 2 ^ 38 + 1 }
    State.Ready s ∧ s.maxLen < s.len ∧ ¬ ((fieldAlg s.cmd).toNat < 2 ∧ (fieldFn s.cmd).toNat = 0) ∧
    State.Ready m ∧ m.maxLen < m.len ∧ ¬ ((fieldAlg m.cmd).toNat < 2 ∧ (fieldFn m.cmd).toNat = 0) :=
  ⟨⟨rfl, .inr rfl⟩, by decide +kernel, by decide +kernel, ⟨rfl, .inr rfl⟩, by decide +kernel,
    by decide +kernel⟩

/-- IndependentModeResults, ChainedEncryptionResults and ChainedDecryptionResults: a short last block. -/
theorem witness_BlockModeResults :
    validChain.klen = 16 ∧ (countingKey 16).length = 16 ∧ Memory.Holds validChain.key (countingKey 16) ∧
    validChain.ivlen = 8 ∧ (bytes 8 1).length = 8 ∧ Memory.Holds validChain.iv (bytes 8 1) ∧
    (bytes 9 2).length = validChain.len ∧ Memory.Holds validChain.din (bytes 9 2) ∧
    validChain.len ≤ validChain.maxLen :=
  ⟨by decide +kernel, by decide, Holds_of_decide _ _ (by decide +kernel), by decide +kernel, by decide,
    Holds_of_decide _ _ (by decide +kernel), by decide +kernel, Holds_of_decide _ _ (by decide +kernel),
    by decide +kernel⟩

/-- The same three, with no input at all. -/
theorem witness_BlockModeResults_empty :
    let s := started 0x1112 (countingKey 16) [] (bytes 8 1) [] 0
    s.klen = 16 ∧ Memory.Holds s.key (countingKey 16) ∧ s.ivlen = 8 ∧ Memory.Holds s.iv (bytes 8 1) ∧
    ([] : List Byte).length = s.len ∧ Memory.Holds s.din [] ∧ s.len ≤ s.maxLen :=
  ⟨by decide +kernel, Holds_of_decide _ _ (by decide +kernel), by decide +kernel,
    Holds_of_decide _ _ (by decide +kernel), by decide +kernel, Holds_of_decide _ _ (by decide +kernel),
    by decide +kernel⟩

/-- QuarterRoundRfc and QuarterRoundEst: distinct indices, and the two worked examples' words. -/
theorem witness_QuarterRounds :
    let q : Quad := ⟨0, 4, 8, 12⟩
    let x : Vector Word 16 :=
      #v[0x11111111, 0, 0, 0, 0x01020304, 0, 0, 0, 0x9b8d6f43, 0, 0, 0, 0x01234567, 0, 0, 0]
    let y : Vector Word 16 := #v[1, 0, 0, 0, 0, 0, 0, 0, 0, 0, 0, 0, 0, 0, 0, 0]
    [q.a, q.b, q.c, q.d].Nodup ∧ x[q.a] = 0x11111111 ∧ x[q.b] = 0x01020304 ∧ x[q.c] = 0x9b8d6f43 ∧
      x[q.d] = 0x01234567 ∧ y[q.a] = 0x00000001 ∧ y[q.b] = 0 ∧ y[q.c] = 0 ∧ y[q.d] = 0 := by
  decide

/-- RfcPassesInAnyOrder and EstPassesInAnyOrder: an order other than the given one, for each pass. -/
theorem witness_PassOrders :
    rfcParams.pass1.reverse.Perm rfcParams.pass1 ∧ rfcParams.pass2.reverse.Perm rfcParams.pass2 ∧
    estParams.pass1.reverse.Perm estParams.pass1 ∧ estParams.pass2.reverse.Perm estParams.pass2 :=
  ⟨List.reverse_perm _, List.reverse_perm _, List.reverse_perm _, List.reverse_perm _⟩

/-- RfcStateSetUp and EstStateSetUp: operands of the lengths they ask for. -/
theorem witness_StateSetUp :
    (countingKey 32).length = 32 ∧ (countingKey 16).length = 16 ∧ (bytes 12 5).length = 12 ∧
    (bytes 8 5).length = 8 := by decide

theorem succeeds_of_check (o : StepResult)
    (h : (match o with
      | .next t => statusTag t.status == 1
      | .fault _ => false
      | .refused _ => false) = true) : ∃ t, o = .next t ∧ statusTag t.status = 1 := by
  cases o with
  | next t => exact ⟨t, rfl, by simpa using h⟩
  | fault _ => cases h
  | refused _ => cases h

/-- XorTwiceReturnsMessage: for both ciphers a command of one byte that succeeds, and its twin on the
output. -/
theorem witness_XorTwiceReturnsMessage :
    let s := started 0x2010 (countingKey 32) (bytes 12 5) [] [0x03] 0
    let e := started 0x2811 (countingKey 16) (bytes 8 5) [] [0x03] 0
    (∃ t s' : State, exec (.rfcXor false 0 0 false true) s = .next t ∧ statusTag t.status = 1 ∧
      s'.klen = s.klen ∧ s'.key = s.key ∧ s'.nlen = s.nlen ∧ s'.nonce = s.nonce ∧
      s'.maxLen = s.maxLen ∧ s'.len = t.olen ∧ s'.din = t.dout) ∧
    (∃ t s' : State, exec (.estXor false 0 2 false true) e = .next t ∧ statusTag t.status = 1 ∧
      s'.klen = e.klen ∧ s'.key = e.key ∧ s'.nlen = e.nlen ∧ s'.nonce = e.nonce ∧
      s'.maxLen = e.maxLen ∧ s'.len = t.olen ∧ s'.din = t.dout) ∧
    [(0x03 : Byte)].length = s.len ∧ [(0x03 : Byte)].length = e.len ∧
    Memory.Holds s.din [0x03] ∧ Memory.Holds e.din [0x03] := by
  intro s e
  obtain ⟨t, ht, ht'⟩ := succeeds_of_check (exec (.rfcXor false 0 0 false true) s) (by decide +kernel)
  obtain ⟨u, hu, hu'⟩ := succeeds_of_check (exec (.estXor false 0 2 false true) e) (by decide +kernel)
  exact ⟨⟨t, { s with len := t.olen, din := t.dout }, ht, ht', rfl, rfl, rfl, rfl, rfl, rfl, rfl⟩,
    ⟨u, { e with len := u.olen, din := u.dout }, hu, hu', rfl, rfl, rfl, rfl, rfl, rfl, rfl⟩,
    rfl, rfl, Holds_of_decide _ _ (by decide +kernel), Holds_of_decide _ _ (by decide +kernel)⟩

/-- WordPrimitives: the two ends of the range of a rotation and of a shift. -/
theorem witness_WordPrimitives :
    rotl32 0x80000001 1 = 0x00000003 ∧ rotl32 0x80000001 31 = 0xc0000000 ∧
    shl32 0x80000001 0 = 0x80000001 ∧ shl32 0x80000001 31 = 0x80000000 ∧ shr32 0x80000001 31 = 1 := by
  decide

/-- EncryptionDiffusion and DecryptionErrorPropagation: the last byte, the last block, changed. -/
theorem witness_Diffusion :
    (let d : List Byte := bytes 9 0x41;
      8 < d.length ∧ d[8]? ≠ some 0x42 ∧ 1 < ceilDiv d.length 8) ∧
    (let bs : List Block := split8 (bytes 9 0x41);
      1 < bs.length ∧ bs[1]? ≠ some (padBlock [])) := by decide +kernel

/-- The reset state meets the premise of each invariant, and it steps. -/
theorem witness_Invariants :
    State.reset.StatusLegal ∧ step State.reset = .next State.reset :=
  ⟨.inr ⟨rfl, by decide⟩, rfl⟩

/-- StepKeepsBuffersCanonical and StepKeepsOutputDescribed: the started empty command meets their
premises, and it steps. -/
theorem witness_Invariants_started :
    let s := started 0x12 [] [] [] [] 0
    s.BuffersCanonical ∧ s.OutputDescribed ∧ ∃ t, step s = .next t := by
  refine ⟨⟨fun b => ?_, rfl⟩, ⟨Nat.le_refl _, Nat.zero_le _, fun a => ?_, fun h => ?_⟩, _, rfl⟩
  · cases b <;> exact ⟨rfl, fun _ _ => rfl⟩
  · simp [started, State.reset]
  · cases h

/-- ResultDependsOnlyOnCommand: two ready states with the same command and different remains. -/
theorem witness_ResultDependsOnlyOnCommand :
    let s' := { validChain with olen := 3, dout := [(0, 1)], work := { Work.reset with v0 := 9 } }
    validChain.Ready ∧ State.Ready s' ∧ s' ≠ validChain ∧ s'.cmd = validChain.cmd ∧
      s'.klen = validChain.klen ∧ s'.key = validChain.key ∧ s'.nlen = validChain.nlen ∧
      s'.nonce = validChain.nonce ∧ s'.ivlen = validChain.ivlen ∧ s'.iv = validChain.iv ∧
      s'.ctr = validChain.ctr ∧ s'.len = validChain.len ∧ s'.din = validChain.din ∧
      s'.maxLen = validChain.maxLen :=
  ⟨⟨rfl, .inr rfl⟩, ⟨rfl, .inr rfl⟩, fun h => absurd (congrArg State.olen h) (by decide),
    rfl, rfl, rfl, rfl, rfl, rfl, rfl, rfl, rfl, rfl, rfl⟩

/-- WorkingRegistersAreInvisible, its first clause: an idle engine that steps on a host write. -/
theorem witness_WorkingRegistersAreInvisible :
    let s := { State.reset with script := [.write (.len 5)] }
    s.phase = .idle ∧ s.script.head? ≠ some .reset ∧ ∃ t, step s = .next t :=
  ⟨rfl, by decide, _, rfl⟩

/-- EngineWritesNoCommandRegister and DecryptionFailedNeverRaised: a ready state that steps. -/
theorem witness_CompletionSteps :
    (started 0x12 [] [] [] [] 0).Ready ∧ ∃ t, step (started 0x12 [] [] [] [] 0) = .next t :=
  ⟨⟨rfl, .inr rfl⟩, _, rfl⟩

/-- PhaseChangesOnlyAtStartCompletionReset: a step of each kind. -/
theorem witness_PhaseChanges :
    (∃ t, step { State.reset with script := [.start] } = .next t ∧ t.phase = .busy) ∧
    (∃ t, step (started 0x12 [] [] [] [] 0) = .next t ∧ t.phase = .idle) ∧
    (∃ t, step { started 0x12 [] [] [] [] 0 with script := [.reset] } = .next t ∧ t.phase = .idle) :=
  ⟨⟨_, rfl, rfl⟩, ⟨_, rfl, rfl⟩, ⟨_, rfl, rfl⟩⟩

/-- StartedCommandCompletes: an idle engine with `START` and a wait pending, its operands written. -/
theorem witness_StartedCommandCompletes :
    let s := { validChain with phase := .idle, status := 0, script := [.start, .wait, .start] }
    s.phase = .idle ∧ s.script = .start :: .wait :: [.start] ∧ State.OperandsWritten s :=
  ⟨rfl, rfl, witness_CommandWithoutFailingCheckSucceeds.2.2⟩

/-- BlockCounterNeverWraps: the longest message that `MAX_LEN` at its largest allows, with a list of its
length. -/
theorem witness_BlockCounterNeverWraps :
    let s := { started 0x2010 [] [] [] [] 0 with len := 2 ^ 38 }
    s.maxLen ≤ 2 ^ 38 ∧ s.len ≤ s.maxLen ∧ 2 ^ 32 - 1 < ceilDiv s.len 64 ∧
      (List.replicate (2 ^ 38) (0 : Byte)).length = s.len :=
  ⟨Nat.le_refl _, Nat.le_refl _, by decide +kernel, List.length_replicate⟩

/-- BlockCounterNeverWraps, its clauses about `RFC.XOR` and `EST.XOR`: the operands of a message of two blocks,
the second with one byte. -/
theorem witness_BlockCounterNeverWraps_exec :
    let s := started 0x2010 (countingKey 32) (bytes 12 5) [] (countingKey 65) 0
    let e := started 0x2811 (countingKey 16) (bytes 8 5) [] (countingKey 65) 0
    (s.maxLen ≤ 2 ^ 38 ∧ s.len ≤ s.maxLen ∧ (countingKey 32).length = s.klen.toNat ∧
      Memory.Holds s.key (countingKey 32) ∧ (bytes 12 5).length = s.nlen.toNat ∧
      Memory.Holds s.nonce (bytes 12 5) ∧ (countingKey 65).length = s.len ∧
      Memory.Holds s.din (countingKey 65) ∧ s.klen = 32 ∧ s.nlen = 12 ∧ 64 * 1 + 0 < s.len) ∧
    (e.maxLen ≤ 2 ^ 38 ∧ e.len ≤ e.maxLen ∧ (countingKey 16).length = e.klen.toNat ∧
      Memory.Holds e.key (countingKey 16) ∧ (bytes 8 5).length = e.nlen.toNat ∧
      Memory.Holds e.nonce (bytes 8 5) ∧ (countingKey 65).length = e.len ∧
      Memory.Holds e.din (countingKey 65) ∧ e.klen = 16 ∧ e.nlen = 8 ∧ estRounds 2 = some 8) :=
  ⟨⟨by decide +kernel, by decide +kernel, by decide +kernel, Holds_of_decide _ _ (by decide +kernel),
      by decide +kernel, Holds_of_decide _ _ (by decide +kernel), by decide +kernel,
      Holds_of_decide _ _ (by decide +kernel), by decide +kernel, by decide +kernel, by decide +kernel⟩,
    ⟨by decide +kernel, by decide +kernel, by decide +kernel, Holds_of_decide _ _ (by decide +kernel),
      by decide +kernel, Holds_of_decide _ _ (by decide +kernel), by decide +kernel,
      Holds_of_decide _ _ (by decide +kernel), by decide +kernel, by decide +kernel, by decide⟩⟩

/-- HostSeesOutputOnlyAfterSuccess: an engine with a result that is started again and keeps the bytes; a busy
engine that a step leaves busy; a failing command, a reset while busy, and a command that succeeds are the
witnesses of FirstFailingCheckIsReported, ResetAbandonsAndClears and CommandWithoutFailingCheckSucceeds. -/
theorem witness_HostSeesOutputOnlyAfterSuccess :
    let s := { State.reset with status := statusSuccess, olen := 1, dout := [(0, 7)], script := [.start] }
    let b := { started 0x12 [] [] [] [] 0 with script := [.start] }
    (s.phase = .idle ∧ s.script = .start :: [] ∧ statusTag s.status = 1 ∧
      Memory.read s.hostView.dout 0 = some 7 ∧
      ∃ t, step s = .next t ∧ t.dout = [(0, 7)] ∧ statusTag t.status ≠ 1) ∧
    State.StatusLegal b ∧ ∃ t, step b = .next t ∧ t.phase = .busy :=
  ⟨⟨rfl, rfl, by decide, by decide, _, rfl, rfl, by decide⟩, .inl ⟨rfl, rfl⟩, _, rfl, rfl⟩

/-- StartSetsBusy, IdleEngineWaits, HostWritesRegisters, ResetAbandonsAndClears and HostWhileBusy: engines
with each of those actions pending. -/
theorem witness_HostActions :
    State.phase { State.reset with script := [.start] } = .idle ∧
    State.script { State.reset with script := [.wait] } = .wait :: [] ∧
    State.script { State.reset with script := [.write (.len 5)] } = .write (.len 5) :: [] ∧
    State.script { validChain with script := [.reset] } = .reset :: [] ∧ validChain.phase = .busy ∧
    State.script { validChain with script := [.start] } = .start :: [] ∧
    State.script { validChain with script := [.write (.cmd 0)] } = .write (.cmd 0) :: [] :=
  ⟨rfl, rfl, rfl, rfl, rfl, rfl, rfl⟩

/-- HostWritesBytes: a write that ends exactly at the extent, and one that passes it by one. -/
theorem witness_HostWritesBytes :
    let s := { State.reset with script := [.write (.bytes .key 254 [0x5a])] }
    let s' := { State.reset with script := [.write (.bytes .key 255 [0x5a])] }
    s.phase = .idle ∧ s.script = .write (.bytes .key 254 [0x5a]) :: [] ∧
    254 + [(0x5a : Byte)].length ≤ s.extent .key ∧
    s'.phase = .idle ∧ s'.script = .write (.bytes .key 255 [0x5a]) :: [] ∧
    s'.extent .key < 255 + [(0x5a : Byte)].length := by decide

end Sys2Proof.Tests
end

/-! SUPPORT. The fields of a command word as its coordinates: they fix the word, they commute with masking,
and a row of R91 is a condition on them. Settles DecodeSelectsMatchingRow. -/

namespace Sys2Proof.Proofs.CommandWord

open Sys2Proof

/-! ### A word and its fields -/

theorem getLsbD_eq_of_extractLsb'_eq {w v : BitVec 32} {start len k : Nat}
    (h : w.extractLsb' start len = v.extractLsb' start len) (hlo : start ≤ k) (hhi : k < start + len) :
    w.getLsbD k = v.getLsbD k := by
  have hk : k - start < len := by omega
  have hbit := congrArg (·.getLsbD (k - start)) h
  simpa [BitVec.getLsbD_extractLsb', hk, Nat.add_sub_cancel' hlo] using hbit

/-- The nine fields of R81 cover the word. -/
theorem word_eq_iff_fields_eq (w v : BitVec 32) :
    w = v ↔ fieldHigh w = fieldHigh v ∧ fieldNp w = fieldNp v ∧ fieldIvp w = fieldIvp v ∧
      fieldRnd w = fieldRnd v ∧ fieldMode w = fieldMode v ∧ fieldBit7 w = fieldBit7 v ∧
      fieldDir w = fieldDir v ∧ fieldFn w = fieldFn v ∧ fieldAlg w = fieldAlg v := by
  constructor
  · rintro rfl
    simp only [and_self]
  · rintro ⟨high, np, ivp, rnd, mode, bit7, dir, fn, alg⟩
    refine BitVec.eq_of_getLsbD_eq fun k hk => ?_
    have ranges : k < 4 ∨ (4 ≤ k ∧ k < 6) ∨ k = 6 ∨ k = 7 ∨ (8 ≤ k ∧ k < 10) ∨ (10 ≤ k ∧ k < 12) ∨
        k = 12 ∨ k = 13 ∨ 14 ≤ k := by omega
    obtain h | ⟨hlo, hhi⟩ | rfl | rfl | ⟨hlo, hhi⟩ | ⟨hlo, hhi⟩ | rfl | rfl | h := ranges
    · exact getLsbD_eq_of_extractLsb'_eq alg (Nat.zero_le k) (by omega)
    · exact getLsbD_eq_of_extractLsb'_eq fn hlo hhi
    · exact dir
    · exact bit7
    · exact getLsbD_eq_of_extractLsb'_eq mode hlo hhi
    · exact getLsbD_eq_of_extractLsb'_eq rnd hlo hhi
    · exact ivp
    · exact np
    · exact getLsbD_eq_of_extractLsb'_eq high h hk

section Masking
variable (w v : BitVec 32)

@[simp] theorem fieldAlg_and : fieldAlg (w &&& v) = fieldAlg w &&& fieldAlg v := BitVec.extractLsb'_and
@[simp] theorem fieldFn_and : fieldFn (w &&& v) = fieldFn w &&& fieldFn v := BitVec.extractLsb'_and
@[simp] theorem fieldDir_and : fieldDir (w &&& v) = (fieldDir w && fieldDir v) := BitVec.getLsbD_and
@[simp] theorem fieldBit7_and : fieldBit7 (w &&& v) = (fieldBit7 w && fieldBit7 v) := BitVec.getLsbD_and
@[simp] theorem fieldMode_and : fieldMode (w &&& v) = fieldMode w &&& fieldMode v := BitVec.extractLsb'_and
@[simp] theorem fieldRnd_and : fieldRnd (w &&& v) = fieldRnd w &&& fieldRnd v := BitVec.extractLsb'_and
@[simp] theorem fieldIvp_and : fieldIvp (w &&& v) = (fieldIvp w && fieldIvp v) := BitVec.getLsbD_and
@[simp] theorem fieldNp_and : fieldNp (w &&& v) = (fieldNp w && fieldNp v) := BitVec.getLsbD_and
@[simp] theorem fieldHigh_and : fieldHigh (w &&& v) = fieldHigh w &&& fieldHigh v := BitVec.extractLsb'_and

end Masking

/-! ### A row of the opcode table as a condition on the fields -/

/-- The field values that a row of R91 asks for; `none` where the row's mask leaves the field open. -/
structure RowFields where
  alg : BitVec 4
  fn : BitVec 2
  dir : Option Bool
  mode : Option (BitVec 2)

/-- The row of an operation, read off the names of R82, R83 and R85. -/
def rowFields : Instr → RowFields
  | .rfcBlk _ _ _ _ _ => ⟨0, 0, none, none⟩
  | .rfcXor _ _ _ _ _ => ⟨0, 1, none, none⟩
  | .estBlk _ _ _ _ _ => ⟨1, 0, none, none⟩
  | .estXor _ _ _ _ _ => ⟨1, 1, none, none⟩
  | .faEnc _ _ _ _ => ⟨2, 0, some false, none⟩
  | .faDec _ _ _ _ => ⟨2, 0, some true, none⟩
  | .fbEnc _ _ _ _ => ⟨3, 0, some false, none⟩
  | .fbDec _ _ _ _ => ⟨3, 0, some true, none⟩
  | .faIndEnc _ _ _ => ⟨2, 1, some false, some 0⟩
  | .faIndDec _ _ _ => ⟨2, 1, some true, some 0⟩
  | .faChnEnc _ _ _ => ⟨2, 1, some false, some 1⟩
  | .faChnDec _ _ _ => ⟨2, 1, some true, some 1⟩
  | .fbIndEnc _ _ _ => ⟨3, 1, some false, some 0⟩
  | .fbIndDec _ _ _ => ⟨3, 1, some true, some 0⟩
  | .fbChnEnc _ _ _ => ⟨3, 1, some false, some 1⟩
  | .fbChnDec _ _ _ => ⟨3, 1, some true, some 1⟩

/-- The fields have the values that the row asks for. -/
def RowFields.Fits (r : RowFields) (alg : BitVec 4) (fn : BitVec 2) (dir : Bool) (mode : BitVec 2) : Prop :=
  alg = r.alg ∧ fn = r.fn ∧ (∀ d, r.dir = some d → dir = d) ∧ ∀ m, r.mode = some m → mode = m

theorem fields_rowMask (j : Instr) :
    fieldHigh (rowMask j) = BitVec.allOnes 18 ∧ fieldNp (rowMask j) = false ∧ fieldIvp (rowMask j) = false ∧
    fieldRnd (rowMask j) = 0#2 ∧
    fieldMode (rowMask j) = ((rowFields j).mode.elim 0 fun _ => BitVec.allOnes 2) ∧
    fieldBit7 (rowMask j) = true ∧ fieldDir (rowMask j) = (rowFields j).dir.isSome ∧
    fieldFn (rowMask j) = BitVec.allOnes 2 ∧ fieldAlg (rowMask j) = BitVec.allOnes 4 := by
  cases j <;> simp only [rowMask, rowFields] <;> decide

theorem fields_rowMatch (j : Instr) :
    fieldHigh (rowMatch j) = 0 ∧ fieldNp (rowMatch j) = false ∧ fieldIvp (rowMatch j) = false ∧
    fieldRnd (rowMatch j) = 0#2 ∧ fieldMode (rowMatch j) = (rowFields j).mode.getD 0 ∧
    fieldBit7 (rowMatch j) = false ∧ fieldDir (rowMatch j) = (rowFields j).dir.getD false ∧
    fieldFn (rowMatch j) = (rowFields j).fn ∧ fieldAlg (rowMatch j) = (rowFields j).alg := by
  cases j <;> simp only [rowMatch, rowFields] <;> decide

theorem dir_masked_iff (dir : Bool) (o : Option Bool) :
    (dir && o.isSome) = o.getD false ↔ ∀ d, o = some d → dir = d := by
  cases o <;> simp

theorem mode_masked_iff (mode : BitVec 2) (o : Option (BitVec 2)) :
    mode &&& (o.elim 0 fun _ => BitVec.allOnes 2) = o.getD 0 ↔ ∀ m, o = some m → mode = m := by
  cases o with
  | none => simp
  | some m => rw [Option.elim_some, BitVec.and_allOnes]; simp

/-- A word matches a row when its reserved bits are 0 and its other fields fit the row. -/
theorem matches_row_iff (w : BitVec 32) (j : Instr) :
    w &&& rowMask j = rowMatch j ↔
      (fieldHigh w = 0 ∧ fieldBit7 w = false) ∧
        (rowFields j).Fits (fieldAlg w) (fieldFn w) (fieldDir w) (fieldMode w) := by
  simp only [word_eq_iff_fields_eq, fieldHigh_and, fieldNp_and, fieldIvp_and, fieldRnd_and, fieldMode_and,
    fieldBit7_and, fieldDir_and, fieldFn_and, fieldAlg_and, fields_rowMask, fields_rowMatch,
    dir_masked_iff, mode_masked_iff, BitVec.and_allOnes, BitVec.and_zero, Bool.and_true,
    Bool.and_false, RowFields.Fits]
  tauto

/-- Operations with the same row fields have the same row. -/
theorem row_eq_of_rowFields_eq {i j : Instr} (h : rowFields i = rowFields j) :
    rowMatch i = rowMatch j ∧ rowMask i = rowMask j := by
  simp only [word_eq_iff_fields_eq, fields_rowMask, fields_rowMatch, h, and_self]

/-! ### The decoder -/

/-- The checks of R92 that look at `ALG`, `FN` and `MODE` (steps 1, 2 and 6) pass. -/
def LegalFields (alg : BitVec 4) (fn mode : BitVec 2) : Prop :=
  alg.toNat ≤ 3 ∧ fn.toNat ≤ 1 ∧ ¬ (2 ≤ alg.toNat ∧ fn = 1 ∧ 2 ≤ mode.toNat)

theorem legalFields_of_fits {j : Instr} {alg : BitVec 4} {fn mode : BitVec 2} {dir : Bool}
    (h : (rowFields j).Fits alg fn dir mode) : LegalFields alg fn mode := by
  obtain ⟨rfl, rfl, -, hmode⟩ := h
  cases j <;> simp_all [rowFields, LegalFields]

/-- R92 step 7 selects an operation whose row the fields fit. -/
theorem fits_selectOperation {alg : BitVec 4} {fn mode : BitVec 2} (dir : Bool) (rnd : BitVec 2)
    (ivp np : Bool) (h : LegalFields alg fn mode) :
    (rowFields (selectOperation alg fn dir mode rnd ivp np)).Fits alg fn dir mode := by
  obtain ⟨halg, hfn, hmode⟩ := h
  have alg_last : alg ≠ 0 → alg ≠ 1 → alg ≠ 2 → alg = 3 := by bv_omega
  have fn_last : fn ≠ 0 → fn = 1 := by bv_omega
  have mode_last : alg ≠ 0 → alg ≠ 1 → fn ≠ 0 → mode ≠ 0 → mode = 1 := by bv_omega
  unfold selectOperation
  split_ifs <;> simp_all [rowFields, RowFields.Fits]

/-- R92 step 7 selects an operation of every row that the fields fit. -/
theorem rowFields_selectOperation_of_fits {j : Instr} {alg : BitVec 4} {fn mode : BitVec 2} {dir : Bool}
    (rnd : BitVec 2) (ivp np : Bool) (h : (rowFields j).Fits alg fn dir mode) :
    rowFields (selectOperation alg fn dir mode rnd ivp np) = rowFields j := by
  obtain ⟨rfl, rfl, hdir, hmode⟩ := h
  cases j <;> simp_all [rowFields, selectOperation]

theorem decode_eq_ok {w : BitVec 32} {i : Instr} (h : decode w = .ok i) :
    (fieldHigh w = 0 ∧ fieldBit7 w = false) ∧ LegalFields (fieldAlg w) (fieldFn w) (fieldMode w) ∧
      selectOperation (fieldAlg w) (fieldFn w) (fieldDir w) (fieldMode w) (fieldRnd w) (fieldIvp w)
        (fieldNp w) = i := by
  unfold decode at h
  split_ifs at h with reserved alg fn rnd mode
  rw [not_or, not_not, Bool.not_eq_true] at reserved
  exact ⟨reserved, ⟨Nat.not_lt.mp alg, Nat.not_lt.mp fn, mode⟩, Decoded.ok.inj h⟩

/-- With its other fields legal, `RND` decides whether a word is accepted (R92 step 3). -/
theorem decode_of_legalFields {w : BitVec 32} (reserved : fieldHigh w = 0 ∧ fieldBit7 w = false)
    (legal : LegalFields (fieldAlg w) (fieldFn w) (fieldMode w)) :
    decode w =
      if fieldAlg w = 1 ∧ fieldRnd w = 3 then .reject .reservedRnd
      else .ok (selectOperation (fieldAlg w) (fieldFn w) (fieldDir w) (fieldMode w) (fieldRnd w)
        (fieldIvp w) (fieldNp w)) := by
  obtain ⟨halg, hfn, hmode⟩ := legal
  unfold decode
  rw [if_neg (by simp [reserved]), if_neg (by omega), if_neg (by omega), if_neg hmode]

/-! ### The opcode table and the decoder agree -/

theorem matches_row_of_decode_eq_ok {w : BitVec 32} {i : Instr} (h : decode w = .ok i) :
    w &&& rowMask i = rowMatch i := by
  obtain ⟨reserved, legal, rfl⟩ := decode_eq_ok h
  exact (matches_row_iff w _).mpr ⟨reserved, fits_selectOperation _ _ _ _ legal⟩

theorem decode_of_matches_row {w : BitVec 32} {j : Instr} (h : w &&& rowMask j = rowMatch j) :
    (∃ i, decode w = .ok i ∧ rowMatch i = rowMatch j ∧ rowMask i = rowMask j) ∨
      (decode w = .reject .reservedRnd ∧ fieldAlg w = 1 ∧ fieldRnd w = 3) := by
  obtain ⟨reserved, fits⟩ := (matches_row_iff w j).mp h
  have hdecode := decode_of_legalFields reserved (legalFields_of_fits fits)
  split_ifs at hdecode with estRnd
  · exact .inr ⟨hdecode, estRnd⟩
  · exact .inl ⟨_, hdecode, row_eq_of_rowFields_eq (rowFields_selectOperation_of_fits _ _ _ fits)⟩

/-- A decoded word matches no second row: whatever row it matches is the row of what it decodes to. -/
theorem row_unique_of_decode_eq_ok {w : BitVec 32} {i j : Instr} (hi : decode w = .ok i)
    (hj : w &&& rowMask j = rowMatch j) : rowMatch j = rowMatch i ∧ rowMask j = rowMask i := by
  obtain ⟨k, hk, hmatch, hmask⟩ | ⟨hreject, -⟩ := decode_of_matches_row hj
  · obtain rfl : k = i := Decoded.ok.inj (hk.symm.trans hi)
    exact ⟨hmatch.symm, hmask.symm⟩
  · exact absurd (hi.symm.trans hreject) Decoded.noConfusion

/-- Settles O3: the table's values are the model's own, and the two directions are the agreement of a row's
condition on the fields with the checks and the selection of R92. -/
theorem decodeSelectsMatchingRow : Obligations.DecodeSelectsMatchingRow := by
  unfold Obligations.DecodeSelectsMatchingRow
  refine ⟨fun dir mode rnd ivp np => ?_, fun w i hi => ?_, fun w j hj => decode_of_matches_row hj⟩
  · simp only [rowMatch, rowMask, and_self]
  · exact ⟨matches_row_of_decode_eq_ok hi, fun j hj => row_unique_of_decode_eq_ok hi hj⟩

end Sys2Proof.Proofs.CommandWord

/-! SUPPORT. What a pass over disjoint quads does, for any quarter-round that is a function of its quad's four
words. Nothing here is about one cipher: R113, R114, R143 and R144 say the same of both. -/

namespace Sys2Proof.Proofs.ArxPass

open Sys2Proof Sys2Proof.Machine

/-! ### A quad of the working state -/

/-- Four words, in the roles `a b c d`. -/
abbrev Words := Word × Word × Word × Word

/-- A quarter-round, as the model has it. -/
abbrev QuarterRound := Quad → Vector Word 16 → Vector Word 16

/-- The indices that a quad names. -/
def quadIndices (q : Quad) : List (Fin 16) := [q.a, q.b, q.c, q.d]

/-- The words of the state that a quad names. -/
def quadWords (q : Quad) (x : Vector Word 16) : Words := (x[q.a], x[q.b], x[q.c], x[q.d])

/-- One assignment to a word of the state: Lean's rule for `set`, at the indices a quad holds. -/
theorem getElem_set_fin (x : Vector Word 16) (i j : Fin 16) (v : Word) :
    (x.set i v)[j] = if i = j then v else x[j] := by
  simp [Vector.getElem_set, Fin.val_inj]

theorem quadWords_eq_iff (q : Quad) (x y : Vector Word 16) :
    quadWords q x = quadWords q y ↔ ∀ j ∈ quadIndices q, x[j] = y[j] := by
  simp [quadWords, quadIndices]

theorem quadWords_eq_mk_iff {q : Quad} {x : Vector Word 16} {a b c d : Word} :
    quadWords q x = (a, b, c, d) ↔ x[q.a] = a ∧ x[q.b] = b ∧ x[q.c] = c ∧ x[q.d] = d := by
  simp [quadWords]

/-! ### A quarter-round as a function of four words -/

/-- `qr` writes nothing outside its quad, and on distinct indices it puts `f` of the quad's words there. -/
structure ActsOnQuad (qr : QuarterRound) (f : Words → Words) : Prop where
  words : ∀ {q : Quad} (x : Vector Word 16), (quadIndices q).Nodup →
    quadWords q (qr q x) = f (quadWords q x)
  frame : ∀ {q : Quad} (x : Vector Word 16) {j : Fin 16}, j ∉ quadIndices q → (qr q x)[j] = x[j]

theorem ActsOnQuad.comp {qr qr' : QuarterRound} {f f' : Words → Words}
    (h' : ActsOnQuad qr' f') (h : ActsOnQuad qr f) : ActsOnQuad (fun q x => qr' q (qr q x)) (f' ∘ f) where
  words x hq := by rw [h'.words _ hq, h.words x hq, Function.comp_apply]
  frame x _ hj := (h'.frame _ hj).trans (h.frame x hj)

/-! ### A pass -/

section
variable {qr : QuarterRound} {f : Words → Words} {quads quads' : List Quad}

theorem arxPass_getElem_of_notMem (hqr : ActsOnQuad qr f) {j : Fin 16} (hj : j ∉ quads.flatMap quadIndices)
    (x : Vector Word 16) : (arxPass qr quads x)[j] = x[j] := by
  induction quads generalizing x with
  | nil => rfl
  | cons p quads ih =>
    rw [List.flatMap_cons, List.mem_append, not_or] at hj
    obtain ⟨hp, htail⟩ := hj
    exact (ih htail (qr p x)).trans (hqr.frame x hp)

/-- A quarter-round on another quad does not change what a quarter-round on `q` writes. -/
theorem quarterRound_after_disjoint (hqr : ActsOnQuad qr f) {p q : Quad} (hq : (quadIndices q).Nodup)
    (hdisjoint : ∀ j ∈ quadIndices q, j ∉ quadIndices p) (x : Vector Word 16) :
    ∀ j ∈ quadIndices q, (qr q (qr p x))[j] = (qr q x)[j] := by
  have unread : quadWords q (qr p x) = quadWords q x :=
    (quadWords_eq_iff q _ _).mpr fun j hj => hqr.frame x (hdisjoint j hj)
  rw [← quadWords_eq_iff, hqr.words _ hq, hqr.words _ hq, unread]

/-- All quarter-rounds at once: each word of a pass is that of its own quarter-round on the words as they
were. -/
theorem arxPass_getElem_of_mem (hqr : ActsOnQuad qr f) (hquads : (quads.flatMap quadIndices).Nodup)
    (x : Vector Word 16) {q : Quad} (hq : q ∈ quads) {j : Fin 16} (hj : j ∈ quadIndices q) :
    (arxPass qr quads x)[j] = (qr q x)[j] := by
  induction quads generalizing x with
  | nil => cases hq
  | cons p quads ih =>
    rw [List.flatMap_cons, List.nodup_append'] at hquads
    obtain ⟨-, htail, hdisjoint⟩ := hquads
    obtain rfl | hq := List.mem_cons.mp hq
    · exact arxPass_getElem_of_notMem hqr (hdisjoint hj) (qr q x)
    · have hnodup : (quadIndices q).Nodup := (List.nodup_flatMap.mp htail).1 q hq
      have hpq : ∀ k ∈ quadIndices q, k ∉ quadIndices p :=
        fun k hk hp => hdisjoint hp (List.mem_flatMap.mpr ⟨q, hq, hk⟩)
      calc (arxPass qr quads (qr p x))[j]
          _ = (qr q (qr p x))[j] := ih htail (qr p x) hq
          _ = (qr q x)[j] := quarterRound_after_disjoint hqr hnodup hpq x j hj

/-- The quarter-rounds of a pass commute. -/
theorem arxPass_eq_of_perm (hqr : ActsOnQuad qr f) (hquads : (quads.flatMap quadIndices).Nodup)
    (hperm : quads'.Perm quads) (x : Vector Word 16) : arxPass qr quads' x = arxPass qr quads x := by
  have hindices := hperm.flatMap_right quadIndices
  have hquads' := hindices.nodup_iff.mpr hquads
  have hword : ∀ j : Fin 16, (arxPass qr quads' x)[j] = (arxPass qr quads x)[j] := fun j => by
    by_cases hj : j ∈ quads.flatMap quadIndices
    · obtain ⟨q, hq, hjq⟩ := List.mem_flatMap.mp hj
      rw [arxPass_getElem_of_mem hqr hquads' x (hperm.mem_iff.mpr hq) hjq,
        arxPass_getElem_of_mem hqr hquads x hq hjq]
    · rw [arxPass_getElem_of_notMem hqr (mt hindices.mem_iff.mp hj) x, arxPass_getElem_of_notMem hqr hj x]
  exact Vector.ext fun n hn => hword ⟨n, hn⟩

theorem arxPass_in_any_order (hqr : ActsOnQuad qr f) (hquads : (quads.flatMap quadIndices).Nodup)
    (x : Vector Word 16) :
    (quads.flatMap quadIndices).Nodup ∧
      (∀ quads' : List Quad, quads'.Perm quads → arxPass qr quads' x = arxPass qr quads x) ∧
      ∀ q ∈ quads, ∀ j ∈ quadIndices q, (arxPass qr quads x)[j] = (qr q x)[j] :=
  ⟨hquads, fun _ hperm => arxPass_eq_of_perm hqr hquads hperm x,
    fun _ hq _ hj => arxPass_getElem_of_mem hqr hquads x hq hj⟩

end

end Sys2Proof.Proofs.ArxPass

/-! SUPPORT. The quarter-round of R112 as a function of four words, applied twice with other rotations.
Settles QuarterRoundRfc and RfcPassesInAnyOrder. -/

namespace Sys2Proof.Proofs.ArxRfc

open Sys2Proof Sys2Proof.Machine Sys2Proof.Proofs.ArxPass

/-- Two of R112's four steps of add, XOR, rotate; `qrRfc` is this twice. -/
def qrRfcHalf (n m : Nat) (q : Quad) (x : Vector Word 16) : Vector Word 16 :=
  let x := x.set q.a (add32 x[q.a] x[q.b])
  let x := x.set q.d (rotl32 (x[q.d] ^^^ x[q.a]) n)
  let x := x.set q.c (add32 x[q.c] x[q.d])
  x.set q.b (rotl32 (x[q.b] ^^^ x[q.c]) m)

theorem qrRfc_eq_halves (q : Quad) (x : Vector Word 16) :
    qrRfc q x = qrRfcHalf 8 7 q (qrRfcHalf 16 12 q x) := rfl

/-- What the two steps do to the four words. -/
def rfcHalfWords (n m : Nat) : Words → Words
  | (a, b, c, d) =>
    let a' := a + b
    let d' := (d ^^^ a').rotateLeft n
    let c' := c + d'
    (a', (b ^^^ c').rotateLeft m, c', d')

theorem qrRfcHalf_actsOnQuad (n m : Nat) : ActsOnQuad (qrRfcHalf n m) (rfcHalfWords n m) where
  words {q} x hq := by
    simp only [quadIndices, List.nodup_cons, List.mem_cons, List.not_mem_nil, or_false, not_or] at hq
    obtain ⟨⟨hab, hac, had⟩, ⟨hbc, hbd⟩, hcd, -⟩ := hq
    simp only [quadWords, qrRfcHalf, rfcHalfWords, rotl32, add32_eq, getElem_set_fin, hab, hac, had, hbc, hbd,
      hcd, Ne.symm hab, Ne.symm hac, Ne.symm had, Ne.symm hbc, Ne.symm hbd, Ne.symm hcd, if_true, if_false]
  frame {q} x j hj := by
    simp only [quadIndices, List.mem_cons, List.not_mem_nil, or_false, not_or] at hj
    obtain ⟨ha, hb, hc, hd⟩ := hj
    simp only [qrRfcHalf, getElem_set_fin, Ne.symm ha, Ne.symm hb, Ne.symm hc, Ne.symm hd, if_false]

theorem qrRfc_actsOnQuad : ActsOnQuad qrRfc (rfcHalfWords 8 7 ∘ rfcHalfWords 16 12) := by
  have hhalves : qrRfc = fun q x => qrRfcHalf 8 7 q (qrRfcHalf 16 12 q x) := funext₂ qrRfc_eq_halves
  rw [hhalves]
  exact (qrRfcHalf_actsOnQuad 8 7).comp (qrRfcHalf_actsOnQuad 16 12)

/-- Settles O19: the two halves' words, one after the other, are the rule's eight assignments; the worked
example is those assignments evaluated. -/
theorem quarterRoundRfc : Obligations.QuarterRoundRfc := by
  unfold Obligations.QuarterRoundRfc
  refine ⟨fun q x hq => ?_, fun q x hq ha hb hc hd => ?_⟩
  · obtain ⟨ha, hb, hc, hd⟩ := quadWords_eq_mk_iff.mp (qrRfc_actsOnQuad.words x hq)
    exact ⟨ha, hb, hc, hd, fun j hj => qrRfc_actsOnQuad.frame x hj⟩
  · have hwords := qrRfc_actsOnQuad.words x hq
    rw [quadWords_eq_mk_iff.mpr ⟨ha, hb, hc, hd⟩] at hwords
    exact quadWords_eq_mk_iff.mp (hwords.trans (by decide))

/-- Settles O21: the quads given are disjoint, and `qrRfc` acts on its quad alone. -/
theorem rfcPassesInAnyOrder : Obligations.RfcPassesInAnyOrder := by
  unfold Obligations.RfcPassesInAnyOrder
  exact fun x => ⟨arxPass_in_any_order qrRfc_actsOnQuad (by decide) x,
    arxPass_in_any_order qrRfc_actsOnQuad (by decide) x⟩

end Sys2Proof.Proofs.ArxRfc

/-! SUPPORT. The quarter-round of R142 as a function of four words. Settles QuarterRoundEst and
EstPassesInAnyOrder. -/

namespace Sys2Proof.Proofs.ArxEst

open Sys2Proof Sys2Proof.Machine Sys2Proof.Proofs.ArxPass

/-- What R142's four assignments do to the four words. -/
def estWords : Words → Words
  | (a, b, c, d) =>
    let b' := b ^^^ (a + d).rotateLeft 7
    let c' := c ^^^ (b' + a).rotateLeft 9
    let d' := d ^^^ (c' + b').rotateLeft 13
    (a ^^^ (d' + c').rotateLeft 18, b', c', d')

/-- Each of the four assignments has an index of its own, so a word read is the one last written there, and an
index outside the quad is never written. -/
theorem qrEst_actsOnQuad : ActsOnQuad qrEst estWords where
  words {q} x hq := by
    simp only [quadIndices, List.nodup_cons, List.mem_cons, List.not_mem_nil, or_false, not_or] at hq
    obtain ⟨⟨hab, hac, had⟩, ⟨hbc, hbd⟩, hcd, -⟩ := hq
    simp only [quadWords, qrEst, estWords, rotl32, add32_eq, getElem_set_fin, hab, hac, had, hbc, hbd, hcd,
      Ne.symm hab, Ne.symm hac, Ne.symm had, Ne.symm hbc, Ne.symm hbd, Ne.symm hcd, if_true, if_false]
    -- What is left is that the amounts in `estParams.rot` are R142's 7, 9, 13 and 18.
    rfl
  frame {q} x j hj := by
    simp only [quadIndices, List.mem_cons, List.not_mem_nil, or_false, not_or] at hj
    obtain ⟨ha, hb, hc, hd⟩ := hj
    simp only [qrEst, getElem_set_fin, Ne.symm ha, Ne.symm hb, Ne.symm hc, Ne.symm hd, if_false]

/-- Settles O20: the words of `estWords` are the rule's four assignments; the worked example is those
assignments evaluated. -/
theorem quarterRoundEst : Obligations.QuarterRoundEst := by
  unfold Obligations.QuarterRoundEst
  refine ⟨fun q x hq => ?_, fun q x hq ha hb hc hd => ?_⟩
  · obtain ⟨ha, hb, hc, hd⟩ := quadWords_eq_mk_iff.mp (qrEst_actsOnQuad.words x hq)
    exact ⟨ha, hb, hc, hd, fun j hj => qrEst_actsOnQuad.frame x hj⟩
  · have hwords := qrEst_actsOnQuad.words x hq
    rw [quadWords_eq_mk_iff.mpr ⟨ha, hb, hc, hd⟩] at hwords
    exact quadWords_eq_mk_iff.mp (hwords.trans (by decide))

/-- Settles O22: the columns and the rows given are disjoint quads, and `qrEst` acts on its quad alone. -/
theorem estPassesInAnyOrder : Obligations.EstPassesInAnyOrder := by
  unfold Obligations.EstPassesInAnyOrder
  exact fun x => ⟨arxPass_in_any_order qrEst_actsOnQuad (by decide) x,
    arxPass_in_any_order qrEst_actsOnQuad (by decide) x⟩

end Sys2Proof.Proofs.ArxEst

/-! SUPPORT. `FEISTEL_STORE` and `FEISTEL_LOAD` undo each other, one iteration of each Feistel loop undoes one
of the other direction's and moves `sum` by a constant, and so do 32 of them. Settles FeistelInverse and
FeistelSumEnds. -/

namespace Sys2Proof.Proofs.Feistel

open Sys2Proof Sys2Proof.Machine Function

/-! ### The block and its halves (R56, R170) -/

/-- The four bytes of a word are adjacent parts of it. -/
theorem be32_bytes (w : Word) :
    be32 (w.extractLsb' 24 8) (w.extractLsb' 16 8) (w.extractLsb' 8 8) (w.extractLsb' 0 8) = w := by
  have high : w.extractLsb' 24 8 ++ w.extractLsb' 16 8 = w.extractLsb' 16 16 :=
    BitVec.extractLsb'_append_extractLsb'_eq_extractLsb' rfl
  have upper : w.extractLsb' 16 16 ++ w.extractLsb' 8 8 = w.extractLsb' 8 24 :=
    BitVec.extractLsb'_append_extractLsb'_eq_extractLsb' rfl
  have whole : w.extractLsb' 8 24 ++ w.extractLsb' 0 8 = w.extractLsb' 0 32 :=
    BitVec.extractLsb'_append_extractLsb'_eq_extractLsb' rfl
  rw [be32, high, upper, whole, BitVec.extractLsb'_eq_self]

/-- A byte that lies above the last one appended. -/
theorem extractLsb'_append_byte {n : Nat} (x : BitVec n) (b : Byte) (start : Nat) :
    (x ++ b).extractLsb' (start + 8) 8 = x.extractLsb' start 8 :=
  BitVec.extractLsb'_append_eq_of_le (Nat.le_add_left 8 start)

theorem beBytes32_be32 (b0 b1 b2 b3 : Byte) : beBytes32 (be32 b0 b1 b2 b3) = #v[b0, b1, b2, b3] := by
  have byte0 : (be32 b0 b1 b2 b3).extractLsb' 24 8 = b0 := calc
    _ = (b0 ++ b1 ++ b2).extractLsb' 16 8 := extractLsb'_append_byte _ b3 16
    _ = (b0 ++ b1).extractLsb' 8 8 := extractLsb'_append_byte _ b2 8
    _ = b0 := BitVec.extractLsb'_append_eq_left
  have byte1 : (be32 b0 b1 b2 b3).extractLsb' 16 8 = b1 := calc
    _ = (b0 ++ b1 ++ b2).extractLsb' 8 8 := extractLsb'_append_byte _ b3 8
    _ = (b0 ++ b1).extractLsb' 0 8 := extractLsb'_append_byte _ b2 0
    _ = b1 := BitVec.extractLsb'_append_eq_right
  have byte2 : (be32 b0 b1 b2 b3).extractLsb' 8 8 = b2 := calc
    _ = (b0 ++ b1 ++ b2).extractLsb' 0 8 := extractLsb'_append_byte _ b3 0
    _ = b2 := BitVec.extractLsb'_append_eq_right
  have byte3 : (be32 b0 b1 b2 b3).extractLsb' 0 8 = b3 :=
    BitVec.extractLsb'_append_eq_right (a := b0 ++ b1 ++ b2)
  simp only [beBytes32, byte0, byte1, byte2, byte3]

theorem loadHalves_storeHalves (h : Halves) : loadHalves (storeHalves h) h.sum = h := by
  obtain ⟨v0, v1, sum⟩ := h
  exact congrArg₂ (Halves.mk · · sum) (be32_bytes v0) (be32_bytes v1)

theorem storeHalves_loadHalves (b : Block) (sum : Word) : storeHalves (loadHalves b sum) = b := by
  simp only [storeHalves, loadHalves, beBytes32_be32]
  refine Vector.ext fun j hj => ?_
  match j with
  | 0 | 1 | 2 | 3 | 4 | 5 | 6 | 7 => rfl

/-! ### One iteration (R173, R174, R176, R177) -/

section
variable (k : Vector Word 4)

/-- Each update adds a term that does not read the half it changes, and subtracting that term undoes it. -/
theorem faDecIter_leftInverse : LeftInverse (faDecIter k) (faEncIter k) := fun h => by
  simp only [faDecIter, faEncIter, add32_eq, sub32_eq, BitVec.add_sub_cancel]

theorem faEncIter_leftInverse : LeftInverse (faEncIter k) (faDecIter k) := fun h => by
  simp only [faDecIter, faEncIter, add32_eq, sub32_eq, BitVec.sub_add_cancel]

theorem fbDecIter_leftInverse : LeftInverse (fbDecIter k) (fbEncIter k) := fun h => by
  simp only [fbDecIter, fbEncIter, add32_eq, sub32_eq, BitVec.add_sub_cancel]

theorem fbEncIter_leftInverse : LeftInverse (fbEncIter k) (fbDecIter k) := fun h => by
  simp only [fbDecIter, fbEncIter, add32_eq, sub32_eq, BitVec.sub_add_cancel]

theorem faEncIter_sum : Semiconj Halves.sum (faEncIter k) (· + feistelDelta) := fun _ => rfl
theorem fbEncIter_sum : Semiconj Halves.sum (fbEncIter k) (· + feistelDelta) := fun _ => rfl
theorem faDecIter_sum : Semiconj Halves.sum (faDecIter k) (· + -feistelDelta) := fun h =>
  sub_eq_add_neg h.sum feistelDelta
theorem fbDecIter_sum : Semiconj Halves.sum (fbDecIter k) (· + -feistelDelta) := fun h =>
  sub_eq_add_neg h.sum feistelDelta

end

/-! ### The 32 iterations -/

theorem sum_iterate {f : Halves → Halves} {d : Word} (hf : Semiconj Halves.sum f (· + d)) (n : Nat)
    (h : Halves) : (f^[n] h).sum = h.sum + n • d := by
  rw [(hf.iterate_right n).eq, add_right_iterate]

/-- `SUM_END = DELTA * NROUNDS` modulo 2^32 (R171). -/
theorem sum_after_increments : 0 + feistelRounds • feistelDelta = feistelSumEnd := by decide

theorem sum_after_decrements : feistelSumEnd + feistelRounds • -feistelDelta = 0 := by decide

section
variable (k : Vector Word 4) (b : Block)

theorem faEncHalves_sum : (faEncHalves k b).sum = feistelSumEnd :=
  (sum_iterate (faEncIter_sum k) feistelRounds (loadHalves b 0)).trans sum_after_increments

theorem fbEncHalves_sum : (fbEncHalves k b).sum = feistelSumEnd :=
  (sum_iterate (fbEncIter_sum k) feistelRounds (loadHalves b 0)).trans sum_after_increments

theorem faDecHalves_sum : (faDecHalves k b).sum = 0 :=
  (sum_iterate (faDecIter_sum k) feistelRounds (loadHalves b feistelSumEnd)).trans
    sum_after_decrements

theorem fbDecHalves_sum : (fbDecHalves k b).sum = 0 :=
  (sum_iterate (fbDecIter_sum k) feistelRounds (loadHalves b feistelSumEnd)).trans
    sum_after_decrements

end

/-- A loop `g` of `n` iterations gives back the block that the loop `f` started from, when it starts with the
`sum` that `f` ended with. -/
theorem block_of_inverse_loop {f g : Halves → Halves} (hgf : LeftInverse g f) {n : Nat} {b : Block}
    {start stop : Word} (hstop : (f^[n] (loadHalves b start)).sum = stop) :
    storeHalves (g^[n] (loadHalves (storeHalves (f^[n] (loadHalves b start))) stop)) = b := by
  rw [← hstop, loadHalves_storeHalves, hgf.iterate n, storeHalves_loadHalves]

/-- Settles O29: the inverse iterations run from the `sum` that the other direction ends with. -/
theorem feistelInverse : Obligations.FeistelInverse := by
  unfold Obligations.FeistelInverse
  exact fun k b =>
    ⟨block_of_inverse_loop (faDecIter_leftInverse k) (faEncHalves_sum k b),
      block_of_inverse_loop (faEncIter_leftInverse k) (faDecHalves_sum k b),
      block_of_inverse_loop (fbDecIter_leftInverse k) (fbEncHalves_sum k b),
      block_of_inverse_loop (fbEncIter_leftInverse k) (fbDecHalves_sum k b)⟩

/-- Settles O30: every iteration moves `sum` by `DELTA`, up in encryption and down in decryption. -/
theorem feistelSumEnds : Obligations.FeistelSumEnds := by
  unfold Obligations.FeistelSumEnds
  refine ⟨rfl, rfl, by decide, rfl, fun k b => ?_⟩
  exact ⟨faEncHalves_sum k b, fbEncHalves_sum k b, faDecHalves_sum k b, fbDecHalves_sum k b, rfl, rfl⟩

end Sys2Proof.Proofs.Feistel

/-! SUPPORT. The bytes of a split and a joined sequence, and the two block modes as functions on lists of
blocks, over any block function. Settles BlockModeOutputLength, BlockModeRoundTrip and EncryptionDiffusion. -/

namespace Sys2Proof.Proofs.BlockModes

open Sys2Proof Sys2Proof.Machine Function

/-! ### Block by block: how many, and which -/

section
variable (f : Block → Block) (prev : Block) (bs : List Block) (d : List Byte) (n i j : Nat)

@[simp] theorem takeBlocks_length : (takeBlocks n d).length = n := by
  induction n generalizing d with
  | zero => rfl
  | succ n ih => exact congrArg (· + 1) (ih (d.drop 8))

@[simp] theorem split8_length : (split8 d).length = ceilDiv d.length 8 := takeBlocks_length d _

theorem joinBlocks_cons (b : Block) : joinBlocks (b :: bs) = b.toList ++ joinBlocks bs := rfl

@[simp] theorem joinBlocks_length : (joinBlocks bs).length = 8 * bs.length := by
  simp [joinBlocks, Nat.mul_comm]

@[simp] theorem indBlocks_length : (indBlocks f bs).length = bs.length := List.length_map f

@[simp] theorem chnEncBlocks_length : (chnEncBlocks f prev bs).length = bs.length := by
  induction bs generalizing prev with
  | nil => rfl
  | cons b bs ih => exact congrArg (· + 1) (ih _)

@[simp] theorem chnDecBlocks_length : (chnDecBlocks f prev bs).length = bs.length := by
  induction bs generalizing prev with
  | nil => rfl
  | cons b bs ih => exact congrArg (· + 1) (ih b)

theorem padBlock_take : padBlock (d.take 8) = padBlock d := by
  refine Vector.ext fun j hj => ?_
  simp [padBlock]

theorem blockAt_getElem (hj : j < 8) : (blockAt d i)[j] = d.getD (8 * i + j) 0 := by
  simp [blockAt, padBlock, List.getD_eq_getElem?_getD]

variable {n i} in
theorem takeBlocks_getElem? (hi : i < n) : (takeBlocks n d)[i]? = some (blockAt d i) := by
  induction n generalizing d i with
  | zero => cases hi
  | succ n ih =>
    cases i with
    | zero => exact congrArg some (padBlock_take d)
    | succ i =>
      rw [takeBlocks, List.getElem?_cons_succ, ih (d.drop 8) (Nat.lt_of_succ_lt_succ hi), blockAt, blockAt,
        List.drop_drop, Nat.mul_succ, Nat.add_comm]

variable {d i} in
theorem split8_getElem? (hi : i < ceilDiv d.length 8) : (split8 d)[i]? = some (blockAt d i) :=
  takeBlocks_getElem? d hi

end

/-- Settles O32: each construction gives one block for each block of the split input. -/
theorem blockModeOutputLength : Obligations.BlockModeOutputLength := by
  unfold Obligations.BlockModeOutputLength
  intro f iv d
  refine ⟨?_, ?_, ?_⟩
  · rw [joinBlocks_length, indBlocks_length, split8_length]
  · rw [joinBlocks_length, chnEncBlocks_length, split8_length]
  · rw [joinBlocks_length, chnDecBlocks_length, split8_length]

/-! ### Splitting and joining (R200) -/

theorem padBlock_toList (d : List Byte) :
    (padBlock d).toList = d.take 8 ++ List.replicate (8 - d.length) 0 := by
  refine List.ext_getElem (by simp; omega) fun j hj _ => ?_
  rw [Vector.length_toList] at hj
  by_cases hlen : j < d.length
  · simp [padBlock, hj, hlen]
  · simp [padBlock, List.getElem_append, hlen]

theorem padBlock_of_toList (b : Block) : padBlock b.toList = b := by
  refine Vector.ext fun j hj => ?_
  simp [padBlock]

theorem joinBlocks_takeBlocks (n : Nat) (d : List Byte) :
    joinBlocks (takeBlocks n d) = d.take (8 * n) ++ List.replicate (8 * n - d.length) 0 := by
  induction n generalizing d with
  | zero => simp [takeBlocks, joinBlocks]
  | succ n ih =>
    have hcons : joinBlocks (takeBlocks (n + 1) d) =
        d.take 8 ++ List.replicate (8 - d.length) 0 ++
          ((d.drop 8).take (8 * n) ++ List.replicate (8 * n - (d.length - 8)) 0) := by
      rw [takeBlocks, joinBlocks_cons, padBlock_take, padBlock_toList, ih, List.length_drop]
    rw [hcons]
    obtain hlen | hlen := Nat.le_total d.length 8
    · have hpad : 8 - d.length + 8 * n = 8 * (n + 1) - d.length := by omega
      have hall : d.length ≤ 8 * (n + 1) := by omega
      rw [List.drop_eq_nil_of_le hlen, List.take_of_length_le hlen, List.take_of_length_le hall,
        Nat.sub_eq_zero_of_le hlen, ← hpad, ← List.replicate_append_replicate]
      simp
    · have hpad : 8 * n - (d.length - 8) = 8 * (n + 1) - d.length := by omega
      rw [Nat.sub_eq_zero_of_le hlen, hpad, Nat.mul_succ, Nat.add_comm (8 * n), List.take_add]
      simp

/-- Joining the split gives the sequence and its zero pad. -/
theorem joinBlocks_split8 (d : List Byte) :
    joinBlocks (split8 d) = d ++ List.replicate (8 * ceilDiv d.length 8 - d.length) 0 := by
  have hcover : d.length ≤ 8 * ceilDiv d.length 8 := by unfold ceilDiv; omega
  rw [split8, joinBlocks_takeBlocks, List.take_of_length_le hcover]

theorem takeBlocks_joinBlocks (bs : List Block) : takeBlocks bs.length (joinBlocks bs) = bs := by
  induction bs with
  | nil => rfl
  | cons b bs ih =>
    have hlen : b.toList.length = 8 := Vector.length_toList
    rw [List.length_cons, takeBlocks, joinBlocks_cons, List.take_left' hlen, List.drop_left' hlen,
      padBlock_of_toList, ih]

/-- Whole blocks need no pad, so splitting gives them back. -/
theorem split8_joinBlocks (bs : List Block) : split8 (joinBlocks bs) = bs := by
  have hcount : ceilDiv (8 * bs.length) 8 = bs.length := by unfold ceilDiv; omega
  rw [split8, joinBlocks_length, hcount, takeBlocks_joinBlocks]

/-! ### Decryption undoes encryption (R217) -/

theorem xorBlock_xorBlock_cancel_right (a b : Block) : xorBlock (xorBlock a b) b = a := by
  refine Vector.ext fun j hj => ?_
  simp [xorBlock]

theorem xorBlock_left_injective (b : Block) : Injective (xorBlock · b) :=
  LeftInverse.injective (g := (xorBlock · b)) (xorBlock_xorBlock_cancel_right · b)

theorem xorBlock_comm (a b : Block) : xorBlock a b = xorBlock b a := by
  refine Vector.ext fun j hj => ?_
  simp [xorBlock, BitVec.xor_comm]

theorem xorBlock_right_injective (a : Block) : Injective (xorBlock a) := fun b c h =>
  xorBlock_left_injective a ((xorBlock_comm b a).trans (h.trans (xorBlock_comm a c)))

section
variable {e f : Block → Block} (hfe : LeftInverse f e)
include hfe

theorem indBlocks_leftInverse : LeftInverse (indBlocks f) (indBlocks e) := hfe.list_map

/-- Decryption chains on the ciphertext it reads, which is what encryption chained on. -/
theorem chnDecBlocks_leftInverse (prev : Block) :
    LeftInverse (chnDecBlocks f prev) (chnEncBlocks e prev) := fun bs => by
  induction bs generalizing prev with
  | nil => rfl
  | cons b bs ih => rw [chnEncBlocks, chnDecBlocks, ih, hfe, xorBlock_xorBlock_cancel_right]

end

/-- The bytes of any encryption that has an inverse on blocks decrypt to the input and its zero pad. -/
theorem joinBlocks_decrypt_encrypt {enc dec : List Block → List Block} (h : LeftInverse dec enc)
    (d : List Byte) :
    joinBlocks (dec (split8 (joinBlocks (enc (split8 d))))) =
      d ++ List.replicate (8 * ceilDiv d.length 8 - d.length) 0 := by
  rw [split8_joinBlocks, h, joinBlocks_split8]

theorem decA_leftInverse (k : Vector Word 4) : LeftInverse (decA k) (encA k) := fun b =>
  have ⟨decA_encA, _, _, _⟩ := Feistel.feistelInverse k b
  decA_encA

theorem decB_leftInverse (k : Vector Word 4) : LeftInverse (decB k) (encB k) := fun b =>
  have ⟨_, _, decB_encB, _⟩ := Feistel.feistelInverse k b
  decB_encB

/-- Settles O33: block by block, decryption is a left inverse of encryption in both modes. -/
theorem blockModeRoundTrip : Obligations.BlockModeRoundTrip := by
  unfold Obligations.BlockModeRoundTrip
  intro k iv d
  exact ⟨joinBlocks_decrypt_encrypt (indBlocks_leftInverse (decA_leftInverse k)) d,
    joinBlocks_decrypt_encrypt (indBlocks_leftInverse (decB_leftInverse k)) d,
    joinBlocks_decrypt_encrypt (chnDecBlocks_leftInverse (decA_leftInverse k) iv) d,
    joinBlocks_decrypt_encrypt (chnDecBlocks_leftInverse (decB_leftInverse k) iv) d⟩

/-! ### Diffusion of a changed byte (R218) -/

section
variable {d : List Byte} {p : Nat} {b : Byte}

theorem blockAt_set_of_ne {i : Nat} (hi : i ≠ p / 8) : blockAt (d.set p b) i = blockAt d i := by
  refine Vector.ext fun j hj => ?_
  have houtside : p ≠ 8 * i + j := by omega
  rw [blockAt_getElem, blockAt_getElem, List.getD_eq_getElem?_getD, List.getElem?_set_ne houtside,
    List.getD_eq_getElem?_getD]

theorem blockAt_set_ne (hp : p < d.length) (hb : d[p]? ≠ some b) :
    blockAt (d.set p b) (p / 8) ≠ blockAt d (p / 8) := by
  intro heq
  have hj : p % 8 < 8 := Nat.mod_lt p (by decide)
  have hbyte : (blockAt (d.set p b) (p / 8))[p % 8] = (blockAt d (p / 8))[p % 8] := by rw [heq]
  rw [blockAt_getElem, blockAt_getElem, Nat.div_add_mod, List.getD_eq_getElem _ _ (by simpa using hp),
    List.getElem_set_self, List.getD_eq_getElem _ _ hp] at hbyte
  exact hb (hbyte ▸ List.getElem?_eq_getElem hp)

/-- A changed byte changes one block of the split. -/
theorem split8_set : split8 (d.set p b) = (split8 d).set (p / 8) (blockAt (d.set p b) (p / 8)) := by
  refine List.ext_getElem? fun i => ?_
  by_cases hi : i < ceilDiv d.length 8
  · have hi' : i < ceilDiv (d.set p b).length 8 := by rwa [List.length_set]
    rw [split8_getElem? hi', List.getElem?_set, split8_getElem? hi, split8_length]
    split
    next h => subst h; rw [if_pos hi]
    next h => rw [blockAt_set_of_ne (Ne.symm h)]
  · rw [List.getElem?_eq_none, List.getElem?_eq_none] <;> simpa using hi

end

section
variable {e : Block → Block} (he : Injective e)
include he

/-- The difference of two chaining values reaches every block after it. -/
theorem chnEncBlocks_ne_of_prev_ne {prev prev' : Block} (hprev : prev' ≠ prev) {bs : List Block} {i : Nat}
    (hi : i < bs.length) : (chnEncBlocks e prev' bs)[i]? ≠ (chnEncBlocks e prev bs)[i]? := by
  induction bs generalizing prev prev' i with
  | nil => cases hi
  | cons b bs ih =>
    have hnext : e (xorBlock b prev') ≠ e (xorBlock b prev) :=
      (he.comp (xorBlock_right_injective b)).ne hprev
    cases i with
    | zero => exact (Option.some_injective _).ne hnext
    | succ i => exact ih hnext (Nat.lt_of_succ_lt_succ hi)

theorem chnEncBlocks_set_getElem?_eq_iff {bs : List Block} {j : Nat} {c : Block} (hj : j < bs.length)
    (hc : bs[j]? ≠ some c) (prev : Block) {i : Nat} (hi : i < bs.length) :
    (chnEncBlocks e prev (bs.set j c))[i]? = (chnEncBlocks e prev bs)[i]? ↔ i < j := by
  induction bs generalizing prev i j with
  | nil => cases hj
  | cons b bs ih =>
    cases j with
    | zero =>
      have hcb : c ≠ b := fun h => hc (congrArg some h.symm)
      have hchanged : e (xorBlock c prev) ≠ e (xorBlock b prev) :=
        (he.comp (xorBlock_left_injective prev)).ne hcb
      refine iff_of_false ?_ (Nat.not_lt_zero i)
      cases i with
      | zero => exact (Option.some_injective _).ne hchanged
      | succ i => exact chnEncBlocks_ne_of_prev_ne he hchanged (Nat.lt_of_succ_lt_succ hi)
    | succ j =>
      cases i with
      | zero => exact iff_of_true rfl (Nat.succ_pos j)
      | succ i =>
        have htail := ih (Nat.lt_of_succ_lt_succ hj) hc (e (xorBlock b prev)) (Nat.lt_of_succ_lt_succ hi)
        exact htail.trans Nat.succ_lt_succ_iff.symm

theorem indBlocks_set_getElem?_eq_iff {bs : List Block} {j : Nat} {c : Block} (hj : j < bs.length)
    (hc : bs[j]? ≠ some c) (i : Nat) :
    (indBlocks e (bs.set j c))[i]? = (indBlocks e bs)[i]? ↔ i ≠ j := by
  rw [indBlocks, indBlocks, List.getElem?_map, List.getElem?_map,
    (Option.map_injective he).eq_iff]
  by_cases hij : i = j
  · subst hij
    rw [List.getElem?_set_self hj]
    exact iff_of_false (Ne.symm hc) (fun h => h rfl)
  · exact iff_of_true (List.getElem?_set_ne (Ne.symm hij)) hij

end

/-- Settles O34: the changed byte changes block `p / 8` of the split, and an injective block function keeps
blocks apart. -/
theorem encryptionDiffusion : Obligations.EncryptionDiffusion := by
  unfold Obligations.EncryptionDiffusion
  intro k iv d p b hp hb d' e he i hi
  have hinj : Injective e := by
    obtain rfl | rfl := he
    · exact (decA_leftInverse k).injective
    · exact (decB_leftInverse k).injective
  have hblock : p / 8 < ceilDiv d.length 8 := by unfold ceilDiv; omega
  have hset : split8 d' = (split8 d).set (p / 8) (blockAt d' (p / 8)) := split8_set
  have hchanged : (split8 d)[p / 8]? ≠ some (blockAt d' (p / 8)) := by
    rw [split8_getElem? hblock]
    exact (Option.some_injective _).ne (blockAt_set_ne hp hb).symm
  rw [← split8_length] at hi hblock
  rw [hset]
  exact ⟨chnEncBlocks_set_getElem?_eq_iff hinj hblock hchanged iv hi,
    indBlocks_set_getElem?_eq_iff hinj hblock hchanged i⟩

end Sys2Proof.Proofs.BlockModes

/-! SUPPORT. The error kinds that an answer can leave in `STATUS.ERR`, followed from the checks of R241 through
the operations to a step of a ready engine. Settles DecryptionFailedNeverRaised. -/

namespace Sys2Proof.Proofs.Exceptions

open Sys2Proof Sys2Proof.Machine

/-! ### What an answer reports -/

/-- The answer does not leave the code of the kind `e` in `STATUS.ERR`. -/
def NeverReports (e : ErrKind) (o : StepResult) : Prop :=
  ∀ t, o = .next t → statusErr t.status ≠ errCode e

section
variable {s : State} {e : ErrKind}

/-- Code 0 is no kind's: it stands for no error (R231). -/
theorem errCode_ne_zero (e : ErrKind) : errCode e ≠ 0 := by cases e <;> decide

theorem neverReports_raise {e' : ErrKind} (he : e' ≠ e) : NeverReports e (.next (s.raise e')) := by
  rintro t ⟨⟩
  rw [State.raise_status, statusErr_failure]
  exact fun h => he (errCode_injective e' e h)

theorem neverReports_succeed (out : List Byte) (w : Work) : NeverReports e (.next (s.succeed out w)) := by
  rintro t ⟨⟩
  rw [State.succeed_status, statusErr_success]
  exact (errCode_ne_zero e).symm

theorem neverReports_refused (r : Refusal) : NeverReports e (.refused r) := nofun

theorem firstFailure_mem {checks : List (Bool × ErrKind)} (h : firstFailure checks = some e) :
    e ∈ checks.map Prod.snd := by
  induction checks with
  | nil => cases h
  | cons c rest ih =>
    rw [firstFailure] at h
    split at h
    · cases h
      exact List.mem_cons_self
    · exact List.mem_cons_of_mem _ (ih h)

/-- Validation reports only the kinds in its list of checks. -/
theorem neverReports_checked {checks : List (Bool × ErrKind)} {body : Unit → StepResult}
    (hchecks : e ∉ checks.map Prod.snd) (hbody : NeverReports e (body ())) :
    NeverReports e (s.checked checks body) := by
  rcases s.checked_cases checks body with ⟨e', hfirst, heq⟩ | ⟨-, heq⟩ <;> rw [heq]
  · exact neverReports_raise (ne_of_mem_of_not_mem (firstFailure_mem hfirst) hchecks)
  · exact hbody

theorem neverReports_reading {b : InBuf} {n : Nat} {body : List Byte → StepResult}
    (hbody : ∀ bs, NeverReports e (body bs)) : NeverReports e (s.reading b n body) := by
  rcases s.reading_cases b n body with ⟨bs, -, heq⟩ | ⟨-, heq⟩ <;> rw [heq]
  · exact hbody bs
  · exact neverReports_refused _

/-! ### After validation no kind is reported -/

theorem neverReports_runBlock (halves : Vector Word 4 → Block → Halves) :
    NeverReports e (s.runBlock halves) :=
  neverReports_reading fun _ => neverReports_reading fun _ => neverReports_succeed _ _

theorem neverReports_runInd (halves : Vector Word 4 → Block → Halves) :
    NeverReports e (s.runInd halves) :=
  neverReports_reading fun _ => neverReports_reading fun _ => neverReports_succeed _ _

theorem neverReports_runChnEnc (halves : Vector Word 4 → Block → Halves) :
    NeverReports e (s.runChnEnc halves) :=
  neverReports_reading fun _ => neverReports_reading fun _ => neverReports_reading fun _ =>
    neverReports_succeed _ _

theorem neverReports_runChnDec (halves : Vector Word 4 → Block → Halves) :
    NeverReports e (s.runChnDec halves) :=
  neverReports_reading fun _ => neverReports_reading fun _ => neverReports_reading fun _ =>
    neverReports_succeed _ _

end

/-! ### `DecryptionFailed` is the kind of no check (R238) -/

section
variable (s : State)

theorem decryptionFailed_notMem_arxChecks (keyOk np : Bool) (nonceLen : BitVec 8) :
    .decryptionFailed ∉ (s.arxChecks keyOk np nonceLen).map Prod.snd := by
  simp [State.arxChecks]

theorem decryptionFailed_notMem_xorChecks (keyOk np : Bool) (nonceLen : BitVec 8) :
    .decryptionFailed ∉ (s.inputTooLong :: s.arxChecks keyOk np nonceLen).map Prod.snd := by
  simp [State.arxChecks, State.inputTooLong]

theorem decryptionFailed_notMem_blockChecks : .decryptionFailed ∉ s.blockChecks.map Prod.snd := by
  simp [State.blockChecks, State.inputTooLong]

theorem decryptionFailed_notMem_indChecks : .decryptionFailed ∉ s.indChecks.map Prod.snd := by
  simp [State.indChecks, State.inputTooLong]

theorem decryptionFailed_notMem_chnChecks (ivp : Bool) :
    .decryptionFailed ∉ (s.chnChecks ivp).map Prod.snd := by
  simp [State.chnChecks, State.inputTooLong]

/-! ### From the operations to the step -/

theorem exec_never_decryptionFailed (i : Instr) : NeverReports .decryptionFailed (exec i s) := by
  cases i with
  | rfcBlk =>
    simp only [exec, execRfcBlk]
    refine neverReports_checked (decryptionFailed_notMem_arxChecks s _ _ _) ?_
    exact neverReports_reading fun _ => neverReports_reading fun _ => neverReports_succeed _ _
  | rfcXor =>
    simp only [exec, execRfcXor]
    refine neverReports_checked (decryptionFailed_notMem_xorChecks s _ _ _) ?_
    exact neverReports_reading fun _ => neverReports_reading fun _ => neverReports_reading fun _ =>
      neverReports_succeed _ _
  | estBlk =>
    simp only [exec, execEstBlk]
    split
    · exact neverReports_raise (by decide)
    · refine neverReports_checked (decryptionFailed_notMem_arxChecks s _ _ _) ?_
      exact neverReports_reading fun _ => neverReports_reading fun _ => neverReports_succeed _ _
  | estXor =>
    simp only [exec, execEstXor]
    split
    · exact neverReports_raise (by decide)
    · refine neverReports_checked (decryptionFailed_notMem_xorChecks s _ _ _) ?_
      exact neverReports_reading fun _ => neverReports_reading fun _ => neverReports_reading fun _ =>
        neverReports_succeed _ _
  | faEnc | faDec | fbEnc | fbDec =>
    simp only [exec, execFaEnc, execFaDec, execFbEnc, execFbDec]
    refine neverReports_checked (decryptionFailed_notMem_blockChecks s) ?_
    exact neverReports_runBlock _
  | faIndEnc | faIndDec | fbIndEnc | fbIndDec =>
    simp only [exec, execFaIndEnc, execFaIndDec, execFbIndEnc, execFbIndDec]
    refine neverReports_checked (decryptionFailed_notMem_indChecks s) ?_
    exact neverReports_runInd _
  | faChnEnc | fbChnEnc =>
    simp only [exec, execFaChnEnc, execFbChnEnc]
    refine neverReports_checked (decryptionFailed_notMem_chnChecks s _) ?_
    exact neverReports_runChnEnc _
  | faChnDec | fbChnDec =>
    simp only [exec, execFaChnDec, execFbChnDec]
    refine neverReports_checked (decryptionFailed_notMem_chnChecks s _) ?_
    exact neverReports_runChnDec _

theorem rejectCommand_never_decryptionFailed (e : DecodeError) :
    NeverReports .decryptionFailed (.next (s.rejectCommand e)) := by
  rcases s.rejectCommand_cases e with heq | heq <;> rw [heq]
  · exact neverReports_raise (by decide)
  · exact neverReports_raise (by decide)

theorem runCommand_never_decryptionFailed : NeverReports .decryptionFailed s.runCommand := by
  unfold State.runCommand
  cases decode s.fetch with
  | ok i => exact exec_never_decryptionFailed s i
  | reject e => exact rejectCommand_never_decryptionFailed s e

end

theorem step_eq_runCommand_of_ready {s : State} (h : s.Ready) : step s = s.runCommand := by
  obtain ⟨hbusy, hturn⟩ := h
  rcases step_cases s with ⟨-, hidle, -⟩ | ⟨-, -, heq⟩ | ⟨a, rest, hscript, hhost, -⟩
  · rw [hbusy] at hidle
    cases hidle
  · exact heq
  · rw [hscript] at hturn
    have hwait : a = .wait := by simpa using hturn
    exact absurd ⟨hbusy, hwait⟩ hhost

/-- Settles O43: a completion is a running command, and no check, rejected word or success reports the
kind. -/
theorem decryptionFailedNeverRaised : Obligations.DecryptionFailedNeverRaised := by
  unfold Obligations.DecryptionFailedNeverRaised
  refine ⟨rfl, fun s t hready hstep => ?_⟩
  rw [step_eq_runCommand_of_ready hready] at hstep
  exact runCommand_never_decryptionFailed s t hstep

end Sys2Proof.Proofs.Exceptions

/-! SUPPORT. A command word as a sum of its fields, and each field as a digit of the word: the encoder and the
decoder are read off these two. Settles DecodeOfEncode, EncodeOfDecode, ReservedWordsAreRejected,
SpecWordsDecode and CommandWordOfNotation. -/

namespace Sys2Proof.Proofs.Encoding

open Sys2Proof Sys2Proof.Proofs.CommandWord

/-! ### The fields of R81 as numbers -/

section
variable (w : BitVec 32)

theorem extractLsb'_toNat_eq_div_mod (start len : Nat) :
    (w.extractLsb' start len).toNat = w.toNat / 2 ^ start % 2 ^ len := by
  rw [BitVec.extractLsb'_toNat, Nat.shiftRight_eq_div_pow]

theorem getLsbD_iff_div_mod (k : Nat) : w.getLsbD k = true ↔ w.toNat / 2 ^ k % 2 = 1 := by
  rw [BitVec.getLsbD, Nat.testBit_eq_decide_div_mod_eq, decide_eq_true_iff]

theorem fieldAlg_toNat : (fieldAlg w).toNat = w.toNat % 16 := by
  rw [fieldAlg, extractLsb'_toNat_eq_div_mod]; omega
theorem fieldFn_toNat : (fieldFn w).toNat = w.toNat / 2 ^ 4 % 4 := extractLsb'_toNat_eq_div_mod w 4 2
theorem fieldMode_toNat : (fieldMode w).toNat = w.toNat / 2 ^ 8 % 4 := extractLsb'_toNat_eq_div_mod w 8 2
theorem fieldRnd_toNat : (fieldRnd w).toNat = w.toNat / 2 ^ 10 % 4 := extractLsb'_toNat_eq_div_mod w 10 2
theorem fieldHigh_toNat : (fieldHigh w).toNat = w.toNat / 2 ^ 14 := by
  rw [fieldHigh, extractLsb'_toNat_eq_div_mod]; omega

end

/-! ### The word made of given fields -/

theorem toNat_append_eq_add {m n : Nat} (x : BitVec m) (y : BitVec n) :
    (x ++ y).toNat = x.toNat * 2 ^ n + y.toNat := by
  rw [BitVec.toNat_append, ← Nat.shiftLeft_add_eq_or_of_lt y.isLt, Nat.shiftLeft_eq]

section
variable (alg : BitVec 4) (fn : BitVec 2) (dir : Bool) (mode rnd : BitVec 2) (ivp np : Bool)

theorem cmdWord_toNat :
    (cmdWord alg fn dir mode rnd ivp np).toNat =
      alg.toNat + 0x10 * fn.toNat + 0x40 * dir.toNat + 0x100 * mode.toNat + 0x400 * rnd.toNat +
        0x1000 * ivp.toNat + 0x2000 * np.toNat := calc
  _ = (0#18 ++ BitVec.ofBool np ++ BitVec.ofBool ivp ++ rnd ++ mode ++ 0#1 ++ BitVec.ofBool dir ++
        fn).toNat * 2 ^ 4 + alg.toNat := toNat_append_eq_add _ alg
  _ = _ := by simp only [toNat_append_eq_add, BitVec.toNat_ofBool, BitVec.toNat_ofNat]; omega

/-- The digits of the sum are the summands. -/
@[simp] theorem fields_cmdWord :
    let w := cmdWord alg fn dir mode rnd ivp np
    fieldHigh w = 0 ∧ fieldNp w = np ∧ fieldIvp w = ivp ∧ fieldRnd w = rnd ∧ fieldMode w = mode ∧
      fieldBit7 w = false ∧ fieldDir w = dir ∧ fieldFn w = fn ∧ fieldAlg w = alg := by
  intro w
  have hsum : w.toNat = _ := cmdWord_toNat alg fn dir mode rnd ivp np
  have hdir := dir.toNat_lt
  have hivp := ivp.toNat_lt
  have hnp := np.toNat_lt
  have bool_ext (x y : Bool) (h : x = true ↔ y.toNat = 1) : x = y := by
    rw [Bool.eq_iff_iff, h, Bool.toNat_eq_one]
  refine ⟨BitVec.eq_of_toNat_eq ?_, bool_ext _ _ ?_, bool_ext _ _ ?_, BitVec.eq_of_toNat_eq ?_,
    BitVec.eq_of_toNat_eq ?_, bool_ext _ _ ?_, bool_ext _ _ ?_, BitVec.eq_of_toNat_eq ?_,
    BitVec.eq_of_toNat_eq ?_⟩
  · rw [fieldHigh_toNat]; exact Nat.div_eq_of_lt (by omega)
  · rw [fieldNp, getLsbD_iff_div_mod]; omega
  · rw [fieldIvp, getLsbD_iff_div_mod]; omega
  · rw [fieldRnd_toNat]; omega
  · rw [fieldMode_toNat]; omega
  · rw [fieldBit7, getLsbD_iff_div_mod, Bool.toNat_false]; omega
  · rw [fieldDir, getLsbD_iff_div_mod]; omega
  · rw [fieldFn_toNat]; omega
  · rw [fieldAlg_toNat]; omega

variable {alg fn mode rnd}

theorem decode_cmdWord (legal : LegalFields alg fn mode) (hrnd : alg = 1 → rnd ≠ 3) :
    decode (cmdWord alg fn dir mode rnd ivp np) = .ok (selectOperation alg fn dir mode rnd ivp np) := by
  obtain ⟨high, hnp, hivp, rnd', mode', bit7, dir', fn', alg'⟩ := fields_cmdWord alg fn dir mode rnd ivp np
  rw [decode_of_legalFields ⟨high, bit7⟩ (by rwa [alg', fn', mode']), hnp, hivp, rnd', mode', dir', fn',
    alg', if_neg (not_and.mpr hrnd)]

theorem encode_selectOperation (legal : LegalFields alg fn mode) :
    encode (selectOperation alg fn dir mode rnd ivp np) = cmdWord alg fn dir mode rnd ivp np := by
  obtain ⟨halg, hfn, hmode⟩ := legal
  have alg_last : alg ≠ 0 → alg ≠ 1 → alg ≠ 2 → alg = 3 := by bv_omega
  have fn_last : fn ≠ 0 → fn = 1 := by bv_omega
  have mode_last : alg ≠ 0 → alg ≠ 1 → fn ≠ 0 → mode ≠ 0 → mode = 1 := by bv_omega
  unfold selectOperation
  split_ifs <;> simp_all [encode]

theorem wellFormed_selectOperation (hrnd : ¬ (alg = 1 ∧ rnd = 3)) :
    (selectOperation alg fn dir mode rnd ivp np).wellFormed = true := by
  unfold selectOperation
  split_ifs <;> simp_all [Instr.wellFormed]

end

theorem cmdWord_fields {w : BitVec 32} (reserved : fieldHigh w = 0 ∧ fieldBit7 w = false) :
    cmdWord (fieldAlg w) (fieldFn w) (fieldDir w) (fieldMode w) (fieldRnd w) (fieldIvp w) (fieldNp w) =
      w := by
  obtain ⟨high, bit7⟩ := reserved
  rw [word_eq_iff_fields_eq, high, bit7]
  exact fields_cmdWord _ _ _ _ _ _ _

/-! ### Encoding and decoding -/

/-- Settles O1: the fields that an operation is encoded with are legal, and select it again. -/
theorem decodeOfEncode : Obligations.DecodeOfEncode := by
  unfold Obligations.DecodeOfEncode
  intro i hi
  cases i with
  | estBlk | estXor =>
    exact decode_cmdWord _ _ _ (by simp [LegalFields]) fun _ => by simpa [Instr.wellFormed] using hi
  | rfcBlk | rfcXor | faEnc | faDec | fbEnc | fbDec | faIndEnc | faIndDec | faChnEnc | faChnDec | fbIndEnc
  | fbIndDec | fbChnEnc | fbChnDec =>
    exact decode_cmdWord _ _ _ (by simp [LegalFields]) (by simp)

/-- Settles O2: the operation selected is encoded with the word's own fields, and those with the reserved bits
0 are the word. -/
theorem encodeOfDecode : Obligations.EncodeOfDecode := by
  unfold Obligations.EncodeOfDecode
  intro w i hi
  obtain ⟨reserved, legal, rfl⟩ := decode_eq_ok hi
  have hrnd : ¬ (fieldAlg w = 1 ∧ fieldRnd w = 3) := fun h => by
    rw [decode_of_legalFields reserved legal, if_pos h] at hi
    cases hi
  exact ⟨(encode_selectOperation _ _ _ legal).trans (cmdWord_fields reserved),
    wellFormed_selectOperation _ _ _ hrnd⟩

/-- Settles O4: the decoder's checks, each on a digit of the word. -/
theorem reservedWordsAreRejected : Obligations.ReservedWordsAreRejected := by
  unfold Obligations.ReservedWordsAreRejected
  intro w high alg fn mode rnd
  have hdecode : decode w =
      if high then .reject .reservedBits
      else if 3 < alg then .reject .reservedAlg
      else if 1 < fn then .reject .reservedFn
      else if alg = 1 ∧ rnd = 3 then .reject .reservedRnd
      else if 2 ≤ alg ∧ fn = 1 ∧ 2 ≤ mode then .reject .unknownMode
      else .ok (selectOperation (fieldAlg w) (fieldFn w) (fieldDir w) (fieldMode w) (fieldRnd w)
        (fieldIvp w) (fieldNp w)) := by
    unfold decode
    simp only [ne_eq, ← BitVec.toNat_inj, fieldHigh_toNat, fieldBit7, getLsbD_iff_div_mod, fieldAlg_toNat,
      fieldFn_toNat, fieldRnd_toNat, fieldMode_toNat]
    rfl
  rw [hdecode]
  split_ifs <;> simp only [Decoded.reject.injEq, reduceCtorEq, true_iff, false_iff] <;> omega

/-- Settles O5: the decoder evaluated at the words of V15. -/
theorem specWordsDecode : Obligations.SpecWordsDecode := by
  unfold Obligations.SpecWordsDecode
  decide

/-- Settles O6: the sum that `cmdWord` is, with the ignored fields 0. -/
theorem commandWordOfNotation : Obligations.CommandWordOfNotation := by
  unfold Obligations.CommandWordOfNotation
  intro rnd ivp np
  have hivp : (if ivp = true then 0x1000 else 0) = 0x1000 * ivp.toNat := by cases ivp <;> rfl
  have hnp : (if np = true then 0x2000 else 0) = 0x2000 * np.toNat := by cases np <;> rfl
  simp only [encode, cmdWord_toNat, hivp, hnp, BitVec.ofNat_eq_ofNat, BitVec.toNat_ofNat, Bool.toNat_false,
    Bool.toNat_true]
  omega

end Sys2Proof.Proofs.Encoding

/-! SUPPORT. Every operation as data: what it checks, which buffers it reads, what it puts into `DOUT` and
into the working registers. `exec_eq_run` says that the model's operations are these; what an operation can
do is then said once, of the data. -/

namespace Sys2Proof.Proofs.Command

open Sys2Proof Sys2Proof.Machine

/-! ### Checks -/

section
variable {s : State} {keyOk np ivp : Bool} {nonceLen : BitVec 8}

theorem firstFailure_eq_none_iff (checks : List (Bool × ErrKind)) :
    firstFailure checks = none ↔ ∀ c ∈ checks, c.1 = false := by
  induction checks with
  | nil => simp [firstFailure]
  | cons c rest ih =>
    obtain ⟨violated, e⟩ := c
    cases violated <;> simp [firstFailure, ih]

theorem firstFailure_inputTooLong_cons (rest : List (Bool × ErrKind)) :
    firstFailure (s.inputTooLong :: rest) = none ↔ s.len ≤ s.maxLen ∧ firstFailure rest = none := by
  simp [firstFailure_eq_none_iff, State.inputTooLong]

theorem arxChecks_pass :
    firstFailure (s.arxChecks keyOk np nonceLen) = none ↔ keyOk = true ∧ np = true ∧ s.nlen = nonceLen := by
  simp [firstFailure_eq_none_iff, State.arxChecks]

theorem blockChecks_pass :
    firstFailure s.blockChecks = none ↔ s.len = 8 ∧ s.len ≤ s.maxLen ∧ s.klen = 16 := by
  simp [firstFailure_eq_none_iff, State.blockChecks, State.inputTooLong]

theorem indChecks_pass : firstFailure s.indChecks = none ↔ s.len ≤ s.maxLen ∧ s.klen = 16 := by
  simp [firstFailure_eq_none_iff, State.indChecks, State.inputTooLong]

theorem chnChecks_pass :
    firstFailure (s.chnChecks ivp) = none ↔ s.len ≤ s.maxLen ∧ s.klen = 16 ∧ ivp = true ∧ s.ivlen = 8 := by
  simp [firstFailure_eq_none_iff, State.chnChecks, State.inputTooLong]

/-- What stands behind validation matters only where every check passes. -/
theorem checked_congr {checks : List (Bool × ErrKind)} {body body' : Unit → StepResult}
    (h : firstFailure checks = none → body () = body' ()) :
    s.checked checks body = s.checked checks body' := by
  unfold State.checked
  split
  · rfl
  · next hnone => exact h hnone

end

/-! ### Operands -/

/-- How many bytes of a buffer a command that reads it takes (R22 to R26). -/
def operandLen (s : State) : InBuf → Nat
  | .key => s.klen.toNat
  | .nonce => s.nlen.toNat
  | .iv => s.ivlen.toNat
  | .din => s.len

/-- The bytes that a command takes from a buffer; `none` when one of them was never written. -/
def operand (s : State) (b : InBuf) : Option (List Byte) :=
  Memory.readBytes (s.buf b) 0 (operandLen s b)

/-- The bytes taken from each buffer, nothing from a buffer that is not read. -/
abbrev Operands := InBuf → List Byte

/-- The operands of a command that reads these buffers. -/
def operands (s : State) (bufs : List InBuf) : Operands :=
  fun b => if b ∈ bufs then (operand s b).getD [] else []

/-- A body to run once the operands from these buffers have been read. -/
def readingAll (s : State) (body : StepResult) : List InBuf → StepResult
  | [] => body
  | b :: bufs => s.reading b (operandLen s b) fun _ => readingAll s body bufs

section
variable {s : State} {b : InBuf} {bufs : List InBuf}

theorem operand_eq_some_iff {bs : List Byte} :
    operand s b = some bs ↔ bs.length = operandLen s b ∧ Memory.Holds (s.buf b) bs := by
  simp only [operand, Memory.readBytes_eq_some_iff, Nat.zero_add, Memory.Holds]
  exact and_congr_right fun h => by rw [h]

theorem readBytes_isSome_iff (m : Memory) (n off : Nat) :
    (Memory.readBytes m off n).isSome = true ↔ ∀ j, j < n → (Memory.read m (off + j)).isSome = true := by
  induction n generalizing off with
  | zero => simp [Memory.readBytes]
  | succ n ih =>
    have hcons : (Memory.readBytes m off (n + 1)).isSome = true ↔
        (Memory.read m off).isSome = true ∧ (Memory.readBytes m (off + 1) n).isSome = true := by
      rw [Memory.readBytes]
      cases Memory.read m off <;> cases Memory.readBytes m (off + 1) n <;> simp
    rw [hcons, ih, Nat.forall_lt_succ_left]
    simp only [Nat.add_zero, Nat.add_right_comm, Nat.add_assoc]

theorem operand_isSome_iff :
    (operand s b).isSome = true ↔ ∀ j, j < operandLen s b → (Memory.read (s.buf b) j).isSome = true := by
  simp only [operand, readBytes_isSome_iff, Nat.zero_add]

theorem operands_of_operand {bs : List Byte} (hb : b ∈ bufs) (h : operand s b = some bs) :
    operands s bufs b = bs := by
  rw [operands, if_pos hb, h, Option.getD_some]

theorem operands_length (hb : b ∈ bufs) (h : (operand s b).isSome = true) :
    (operands s bufs b).length = operandLen s b := by
  obtain ⟨bs, hbs⟩ := Option.isSome_iff_exists.mp h
  rw [operands_of_operand hb hbs]
  exact (operand_eq_some_iff.mp hbs).1

theorem reading_eq_reading {n : Nat} {body body' : List Byte → StepResult} (hn : n = operandLen s b)
    (h : ∀ bs, operand s b = some bs → body bs = body' bs) :
    s.reading b n body = s.reading b (operandLen s b) body' := by
  subst hn
  unfold State.reading
  split
  · next bs hbs => exact h bs hbs
  · rfl

/-- Everything that the operand reads can do. -/
theorem readingAll_cases (s : State) (body : StepResult) (bufs : List InBuf) :
    ((∀ b ∈ bufs, (operand s b).isSome = true) ∧ readingAll s body bufs = body) ∨
      ∃ b ∈ bufs, operand s b = none ∧ readingAll s body bufs = .refused (.unwrittenByte b) := by
  induction bufs with
  | nil => exact .inl ⟨nofun, rfl⟩
  | cons b bufs ih =>
    rcases s.reading_cases b (operandLen s b) fun _ => readingAll s body bufs with
      ⟨bs, hbs, heq⟩ | ⟨hnone, heq⟩
    · have hb : (operand s b).isSome = true := Option.isSome_iff_exists.mpr ⟨bs, hbs⟩
      rw [readingAll, heq]
      rcases ih with ⟨hall, hrest⟩ | ⟨c, hc, hnone, hrest⟩
      · exact .inl ⟨List.forall_mem_cons.mpr ⟨hb, hall⟩, hrest⟩
      · exact .inr ⟨c, List.mem_cons_of_mem b hc, hnone, hrest⟩
    · exact .inr ⟨b, List.mem_cons_self, hnone, heq⟩

/-- Operand reads that find the same bytes give corresponding answers. -/
theorem readingAll_map {s' : State} {body : StepResult} (g : State → State)
    (hread : bufs.map (operand s') = bufs.map (operand s)) :
    readingAll s' (mapNext g body) bufs = mapNext g (readingAll s body bufs) := by
  induction bufs with
  | nil => rfl
  | cons b bufs ih =>
    obtain ⟨hb, hbufs⟩ := List.cons_eq_cons.mp hread
    unfold operand at hb
    simp only [readingAll, State.reading, hb, ih hbufs]
    split <;> rfl

theorem operands_congr {s' : State} (hread : bufs.map (operand s') = bufs.map (operand s)) :
    operands s' bufs = operands s bufs := by
  funext b
  unfold operands
  split_ifs with hb
  · rw [List.map_inj_left.mp hread b hb]
  · rfl

end

/-! ### An operation as data -/

/-- What sets an operation apart: its checks, the buffers it reads, and its result and the working registers
after it, as functions of `CTR`, of the working registers before it and of the operands. -/
structure Op where
  checks : State → List (Bool × ErrKind)
  reads : List InBuf
  output : Word → Operands → List Byte
  work : Word → Work → Operands → Work

/-- The success outcome of an operation. -/
def Op.complete (o : Op) (s : State) : State :=
  s.succeed (o.output s.ctr (operands s o.reads)) (o.work s.ctr s.work (operands s o.reads))

/-- Validation, the operand reads, the result. -/
def Op.run (o : Op) (s : State) : StepResult :=
  s.checked (o.checks s) fun _ => readingAll s (.next (o.complete s)) o.reads

/-- What sets an ARX cipher apart: a check of the command's fields, its key and nonce lengths, its keystream
block function of key, nonce and counter, and its double rounds. -/
structure ArxCipher where
  fieldCheck : List (Bool × ErrKind)
  keyOk : State → Bool
  nonceLen : BitVec 8
  block : List Byte → List Byte → Word → KeystreamBlock
  double : Nat

def rfcCipher : ArxCipher := ⟨[], State.rfcKeyOk, 12, rfcBlock, rfcDoubleRounds⟩

/-- `RND = 3`, which selects no round count, fails the check before anything else (R86). -/
def estCipher (rnd : BitVec 2) : ArxCipher :=
  ⟨[(rnd == 3, .illegalCommand)], State.estKeyOk, 8,
    fun key nonce => estBlock key nonce ((estRounds rnd).getD 0), (estRounds rnd).getD 0 / 2⟩

/-- `RFC.BLK`, `EST.BLK` (R117, R148). -/
def keystreamOp (a : ArxCipher) (np : Bool) : Op where
  checks s := a.fieldCheck ++ s.arxChecks (a.keyOk s) np a.nonceLen
  reads := [.key, .nonce]
  output c ops := (a.block (ops .key) (ops .nonce) c).ks.toList
  work c w ops := { w with ctr := c }.afterBlock (a.block (ops .key) (ops .nonce) c) a.double

/-- `RFC.XOR`, `EST.XOR` (R118, R149). -/
def xorOp (a : ArxCipher) (np : Bool) : Op where
  checks s := a.fieldCheck ++ s.inputTooLong :: s.arxChecks (a.keyOk s) np a.nonceLen
  reads := [.key, .nonce, .din]
  output _ ops :=
    keystreamXor (a.block (ops .key) (ops .nonce)) (ceilDiv (ops .din).length 64) 0 (ops .din)
  work _ w ops :=
    w.afterXor (a.block (ops .key) (ops .nonce)) (ceilDiv (ops .din).length 64) a.double

/-- A Feistel loop: the halves after it, from the key words and the block. -/
abbrev FeistelLoop := Vector Word 4 → Block → Halves

/-- The block function of a Feistel loop under a key. -/
def blockFunction (halves : FeistelLoop) (key : List Byte) (b : Block) : Block :=
  storeHalves (halves (feistelKeyWords key) b)

theorem blockFunction_eq (halves : FeistelLoop) (key : List Byte) :
    blockFunction halves key = fun b => storeHalves (halves (feistelKeyWords key) b) := rfl

/-- The four single-block operations (R173, R174, R176, R177). -/
def blockOp (halves : FeistelLoop) : Op where
  checks := State.blockChecks
  reads := [.key, .din]
  output _ ops := (blockFunction halves (ops .key) (padBlock (ops .din))).toList
  work _ w ops :=
    w.afterHalves (feistelKeyWords (ops .key)) (halves (feistelKeyWords (ops .key)) (padBlock (ops .din)))

/-- The four operations of independent mode (R208, R209, R212, R213). -/
def indOp (halves : FeistelLoop) : Op where
  checks := State.indChecks
  reads := [.key, .din]
  output _ ops := joinBlocks (indBlocks (blockFunction halves (ops .key)) (split8 (ops .din)))
  work _ w ops :=
    w.afterBlocks (feistelKeyWords (ops .key)) (halves (feistelKeyWords (ops .key)))
      (split8 (ops .din)).length (split8 (ops .din)).getLast? w.prev

/-- The two chained encryptions (R210, R214). -/
def chnEncOp (halves : FeistelLoop) (ivp : Bool) : Op where
  checks s := s.chnChecks ivp
  reads := [.key, .iv, .din]
  output _ ops :=
    joinBlocks (chnEncBlocks (blockFunction halves (ops .key)) (padBlock (ops .iv)) (split8 (ops .din)))
  work _ w ops :=
    w.afterBlocks (feistelKeyWords (ops .key)) (halves (feistelKeyWords (ops .key)))
      (split8 (ops .din)).length
      (chnEncInputs (blockFunction halves (ops .key)) (padBlock (ops .iv)) (split8 (ops .din))).getLast?
      ((chnEncBlocks (blockFunction halves (ops .key)) (padBlock (ops .iv)) (split8 (ops .din))).getLast?.getD
        (padBlock (ops .iv)))

/-- The two chained decryptions (R211, R215). -/
def chnDecOp (halves : FeistelLoop) (ivp : Bool) : Op where
  checks s := s.chnChecks ivp
  reads := [.key, .iv, .din]
  output _ ops :=
    joinBlocks (chnDecBlocks (blockFunction halves (ops .key)) (padBlock (ops .iv)) (split8 (ops .din)))
  work _ w ops :=
    w.afterBlocks (feistelKeyWords (ops .key)) (halves (feistelKeyWords (ops .key)))
      (split8 (ops .din)).length (split8 (ops .din)).getLast?
      ((split8 (ops .din)).getLast?.getD (padBlock (ops .iv)))

/-- The operation of an instruction. -/
def op : Instr → Op
  | .rfcBlk _ _ _ _ np => keystreamOp rfcCipher np
  | .rfcXor _ _ _ _ np => xorOp rfcCipher np
  | .estBlk _ _ rnd _ np => keystreamOp (estCipher rnd) np
  | .estXor _ _ rnd _ np => xorOp (estCipher rnd) np
  | .faEnc _ _ _ _ => blockOp faEncHalves
  | .faDec _ _ _ _ => blockOp faDecHalves
  | .fbEnc _ _ _ _ => blockOp fbEncHalves
  | .fbDec _ _ _ _ => blockOp fbDecHalves
  | .faIndEnc _ _ _ => indOp faEncHalves
  | .faIndDec _ _ _ => indOp faDecHalves
  | .fbIndEnc _ _ _ => indOp fbEncHalves
  | .fbIndDec _ _ _ => indOp fbDecHalves
  | .faChnEnc _ ivp _ => chnEncOp faEncHalves ivp
  | .fbChnEnc _ ivp _ => chnEncOp fbEncHalves ivp
  | .faChnDec _ ivp _ => chnDecOp faDecHalves ivp
  | .fbChnDec _ ivp _ => chnDecOp fbDecHalves ivp

/-! ### The model's operations are these -/

section
variable (s : State) {np ivp : Bool} (halves : FeistelLoop) (a : ArxCipher)

theorem keystream_body {keyLen nonceLen : Nat} (hk : keyLen = s.klen.toNat) (hn : nonceLen = s.nlen.toNat) :
    (s.reading .key keyLen fun key => s.reading .nonce nonceLen fun nonce =>
      s.emitBlock (a.block key nonce s.ctr) a.double) =
    readingAll s (.next ((keystreamOp a np).complete s)) (keystreamOp a np).reads := by
  refine reading_eq_reading hk fun key hkey => reading_eq_reading hn fun nonce hnonce => ?_
  simp [readingAll, State.emitBlock, Op.complete, keystreamOp, operands, hkey, hnonce]

theorem xor_body {keyLen nonceLen : Nat} (hk : keyLen = s.klen.toNat) (hn : nonceLen = s.nlen.toNat) :
    (s.reading .key keyLen fun key => s.reading .nonce nonceLen fun nonce => s.reading .din s.len fun d =>
      s.runXor (a.block key nonce) a.double d) =
    readingAll s (.next ((xorOp a np).complete s)) (xorOp a np).reads := by
  refine reading_eq_reading hk fun key hkey => reading_eq_reading hn fun nonce hnonce =>
    reading_eq_reading rfl fun d hd => ?_
  simp [readingAll, State.runXor, Op.complete, xorOp, operands, hkey, hnonce, hd]

theorem runBlock_eq (hk : s.klen = 16) (hlen : s.len = 8) :
    s.runBlock halves = readingAll s (.next ((blockOp halves).complete s)) (blockOp halves).reads := by
  refine reading_eq_reading (by rw [operandLen, hk]; rfl) fun key hkey =>
    reading_eq_reading hlen.symm fun d hd => ?_
  simp [readingAll, Op.complete, blockOp, blockFunction, operands, hkey, hd]

theorem runInd_eq (hk : s.klen = 16) :
    s.runInd halves = readingAll s (.next ((indOp halves).complete s)) (indOp halves).reads := by
  refine reading_eq_reading (by rw [operandLen, hk]; rfl) fun key hkey =>
    reading_eq_reading rfl fun d hd => ?_
  simp [readingAll, Op.complete, indOp, blockFunction_eq, operands, hkey, hd]

theorem runChnEnc_eq (hk : s.klen = 16) (hiv : s.ivlen = 8) :
    s.runChnEnc halves =
      readingAll s (.next ((chnEncOp halves ivp).complete s)) (chnEncOp halves ivp).reads := by
  refine reading_eq_reading (by rw [operandLen, hk]; rfl) fun key hkey =>
    reading_eq_reading (by rw [operandLen, hiv]; rfl) fun iv hiv => reading_eq_reading rfl fun d hd => ?_
  simp [readingAll, Op.complete, chnEncOp, blockFunction_eq, operands, hkey, hiv, hd]

theorem runChnDec_eq (hk : s.klen = 16) (hiv : s.ivlen = 8) :
    s.runChnDec halves =
      readingAll s (.next ((chnDecOp halves ivp).complete s)) (chnDecOp halves ivp).reads := by
  refine reading_eq_reading (by rw [operandLen, hk]; rfl) fun key hkey =>
    reading_eq_reading (by rw [operandLen, hiv]; rfl) fun iv hiv => reading_eq_reading rfl fun d hd => ?_
  simp [readingAll, Op.complete, chnDecOp, blockFunction_eq, operands, hkey, hiv, hd]

end

theorem rfcKeyOk_iff {s : State} : s.rfcKeyOk = true ↔ s.klen = 32 := by simp [State.rfcKeyOk]

/-- `RND` selects a round count unless it is 3 (R86). -/
theorem estRounds_cases (rnd : BitVec 2) :
    (rnd == 3) = true ∧ estRounds rnd = none ∨
      (rnd == 3) = false ∧ estRounds rnd = some ((estRounds rnd).getD 0) := by
  revert rnd; decide

/-- A field check that fails is the first, one that passes is as if it were not there. -/
theorem checked_fieldCheck_of_true {s : State} {e : ErrKind} {rest : List (Bool × ErrKind)}
    {body : Unit → StepResult} {violated : Bool} (h : violated = true) :
    s.checked ([(violated, e)] ++ rest) body = .next (s.raise e) := by
  subst h; rfl

theorem checked_fieldCheck_of_false {s : State} {e : ErrKind} {rest : List (Bool × ErrKind)}
    {body : Unit → StepResult} {violated : Bool} (h : violated = false) :
    s.checked ([(violated, e)] ++ rest) body = s.checked rest body := by
  subst h; rfl

/-- The model's arm of an instruction runs the instruction's data. -/
theorem exec_eq_run (i : Instr) (s : State) : exec i s = (op i).run s := by
  unfold Op.run
  cases i with
  | rfcBlk dir mode rnd ivp np =>
    simp only [exec, execRfcBlk]
    refine checked_congr fun hpass => ?_
    obtain ⟨hk, -, hn⟩ := arxChecks_pass.mp hpass
    exact keystream_body s rfcCipher (by rw [rfcKeyOk_iff.mp hk]; rfl) (by rw [hn]; rfl)
  | rfcXor dir mode rnd ivp np =>
    simp only [exec, execRfcXor]
    refine checked_congr fun hpass => ?_
    obtain ⟨-, hpass⟩ := (firstFailure_inputTooLong_cons _).mp hpass
    obtain ⟨hk, -, hn⟩ := arxChecks_pass.mp hpass
    exact xor_body s rfcCipher (by rw [rfcKeyOk_iff.mp hk]; rfl) (by rw [hn]; rfl)
  | estBlk dir mode rnd ivp np =>
    obtain ⟨hrnd, hnone⟩ | ⟨hrnd, hsome⟩ := estRounds_cases rnd
    · simp only [exec, execEstBlk, hnone]
      exact (checked_fieldCheck_of_true hrnd).symm
    · rw [exec, execEstBlk, hsome]
      refine Eq.trans (checked_congr fun hpass => ?_) (checked_fieldCheck_of_false hrnd).symm
      obtain ⟨-, -, hn⟩ := arxChecks_pass.mp hpass
      exact keystream_body s (estCipher rnd) rfl (by rw [hn]; rfl)
  | estXor dir mode rnd ivp np =>
    obtain ⟨hrnd, hnone⟩ | ⟨hrnd, hsome⟩ := estRounds_cases rnd
    · simp only [exec, execEstXor, hnone]
      exact (checked_fieldCheck_of_true hrnd).symm
    · rw [exec, execEstXor, hsome]
      refine Eq.trans (checked_congr fun hpass => ?_) (checked_fieldCheck_of_false hrnd).symm
      obtain ⟨-, hpass⟩ := (firstFailure_inputTooLong_cons _).mp hpass
      obtain ⟨-, -, hn⟩ := arxChecks_pass.mp hpass
      exact xor_body s (estCipher rnd) rfl (by rw [hn]; rfl)
  | faEnc | faDec | fbEnc | fbDec =>
    simp only [exec, execFaEnc, execFaDec, execFbEnc, execFbDec]
    refine checked_congr fun hpass => ?_
    obtain ⟨hlen, -, hk⟩ := blockChecks_pass.mp hpass
    exact runBlock_eq s _ hk hlen
  | faIndEnc | faIndDec | fbIndEnc | fbIndDec =>
    simp only [exec, execFaIndEnc, execFaIndDec, execFbIndEnc, execFbIndDec]
    refine checked_congr fun hpass => ?_
    obtain ⟨-, hk⟩ := indChecks_pass.mp hpass
    exact runInd_eq s _ hk
  | faChnEnc | fbChnEnc =>
    simp only [exec, execFaChnEnc, execFbChnEnc]
    refine checked_congr fun hpass => ?_
    obtain ⟨-, hk, -, hiv⟩ := chnChecks_pass.mp hpass
    exact runChnEnc_eq s _ hk hiv
  | faChnDec | fbChnDec =>
    simp only [exec, execFaChnDec, execFbChnDec]
    refine checked_congr fun hpass => ?_
    obtain ⟨-, hk, -, hiv⟩ := chnChecks_pass.mp hpass
    exact runChnDec_eq s _ hk hiv

/-! ### What an operation can do -/

section
variable {o : Op} {s : State}

/-- The kind of the first check that fails; a refusal for an operand byte never written; or the result. -/
theorem Op.run_cases (o : Op) (s : State) :
    (∃ e, firstFailure (o.checks s) = some e ∧ o.run s = .next (s.raise e)) ∨
    (firstFailure (o.checks s) = none ∧
      ((∃ b ∈ o.reads, operand s b = none ∧ o.run s = .refused (.unwrittenByte b)) ∨
        (∀ b ∈ o.reads, (operand s b).isSome = true) ∧ o.run s = .next (o.complete s))) := by
  rcases s.checked_cases (o.checks s) fun _ => readingAll s (.next (o.complete s)) o.reads with
    ⟨e, he, heq⟩ | ⟨hnone, heq⟩
  · exact .inl ⟨e, he, heq⟩
  · unfold Op.run
    rw [heq]
    rcases readingAll_cases s (.next (o.complete s)) o.reads with ⟨hall, hbody⟩ | hrefused
    · exact .inr ⟨hnone, .inr ⟨hall, hbody⟩⟩
    · exact .inr ⟨hnone, .inl hrefused⟩

theorem Op.run_of_failure {e : ErrKind} (he : firstFailure (o.checks s) = some e) :
    o.run s = .next (s.raise e) := s.checked_of_some _ _ e he

theorem Op.run_of_written (hpass : firstFailure (o.checks s) = none)
    (hwritten : ∀ b ∈ o.reads, (operand s b).isSome = true) : o.run s = .next (o.complete s) := by
  rcases o.run_cases s with ⟨e, he, -⟩ | ⟨-, ⟨b, hb, hnone, -⟩ | ⟨-, heq⟩⟩
  · rw [hpass] at he; cases he
  · have hb := hwritten b hb
    rw [hnone] at hb; cases hb
  · exact heq

/-- A success is the result of a command that passed its checks and whose operands are written. -/
theorem Op.run_success {t : State} (h : o.run s = .next t) (htag : statusTag t.status = 1) :
    firstFailure (o.checks s) = none ∧ (∀ b ∈ o.reads, (operand s b).isSome = true) ∧ t = o.complete s := by
  rcases o.run_cases s with ⟨e, -, heq⟩ | ⟨hpass, ⟨b, -, -, heq⟩ | ⟨hall, heq⟩⟩
  · cases heq.symm.trans h
    rw [State.raise_status, statusTag_failure] at htag
    exact absurd htag (by decide)
  · cases heq.symm.trans h
  · exact ⟨hpass, hall, (Host.Outcome.next.inj (heq.symm.trans h)).symm⟩

end

end Sys2Proof.Proofs.Command

/-! SUPPORT. The validation order of R241, read off the command word, is the order of each operation's own
checks; what the host must have written is what the operation reads. So a completion is known from the
registers and buffers alone: what it fails with, what it is refused for, or its result. -/

namespace Sys2Proof.Proofs.Validation

open Sys2Proof Sys2Proof.Machine Sys2Proof.Proofs.CommandWord Sys2Proof.Proofs.Encoding
open Sys2Proof.Proofs.Command Sys2Proof.Proofs.BlockModes

section
variable {s : State} {i : Instr}

/-! ### An accepted word -/

/-- R241 on the fields of an accepted word is the operation's list of checks. -/
theorem firstError_of_decode_ok (h : decode s.cmd = .ok i) :
    s.firstError = firstFailure ((op i).checks s) := by
  obtain ⟨hcmd, hwf⟩ := encodeOfDecode s.cmd i h
  unfold State.firstError
  simp only [wordIsArx, wordIsChained, ← hcmd]
  cases i with
  | rfcBlk =>
    simp [encode, op, keystreamOp, rfcCipher, firstFailure, State.arxChecks, State.rfcKeyOk]
  | rfcXor =>
    simp [encode, op, xorOp, rfcCipher, firstFailure, State.arxChecks, State.rfcKeyOk, State.inputTooLong]
  | estBlk _ _ rnd =>
    have hrnd : rnd ≠ 3#2 := by simpa [Instr.wellFormed] using hwf
    have hcode : rnd.toNat ≠ 3 := fun h => hrnd (BitVec.eq_of_toNat_eq h)
    simp [hrnd, hcode, encode, op, keystreamOp, estCipher, firstFailure, State.arxChecks, State.estKeyOk]
  | estXor _ _ rnd =>
    have hrnd : rnd ≠ 3#2 := by simpa [Instr.wellFormed] using hwf
    have hcode : rnd.toNat ≠ 3 := fun h => hrnd (BitVec.eq_of_toNat_eq h)
    simp [hrnd, hcode, encode, op, xorOp, estCipher, firstFailure, State.arxChecks, State.estKeyOk,
      State.inputTooLong]
  | faEnc | faDec | fbEnc | fbDec =>
    by_cases hlen : s.len = 8
    · simp [hlen, encode, op, blockOp, firstFailure, State.blockChecks, State.inputTooLong]
    · simp [hlen, encode, op, blockOp, firstFailure, State.blockChecks]
  | faIndEnc | faIndDec | fbIndEnc | fbIndDec =>
    simp [encode, op, indOp, firstFailure, State.indChecks, State.inputTooLong]
  | faChnEnc | fbChnEnc =>
    simp [encode, op, chnEncOp, firstFailure, State.chnChecks, State.inputTooLong]
  | faChnDec | fbChnDec =>
    simp [encode, op, chnDecOp, firstFailure, State.chnChecks, State.inputTooLong]

/-- What R272 asks the host to write is what the operation reads. -/
theorem operandsWritten_iff (h : decode s.cmd = .ok i) :
    s.OperandsWritten ↔ ∀ b ∈ (op i).reads, (operand s b).isSome = true := by
  obtain ⟨hcmd, -⟩ := encodeOfDecode s.cmd i h
  unfold State.OperandsWritten
  simp only [operand_isSome_iff, wordIsArx, wordIsChained, ← hcmd]
  cases i with
  | rfcBlk | estBlk => simp [encode, op, keystreamOp, operandLen]
  | rfcXor | estXor => simp [encode, op, xorOp, operandLen]
  | faEnc | faDec | fbEnc | fbDec => simp [encode, op, blockOp, operandLen]
  | faIndEnc | faIndDec | fbIndEnc | fbIndDec => simp [encode, op, indOp, operandLen]
  | faChnEnc | fbChnEnc => simp [encode, op, chnEncOp, operandLen]
  | faChnDec | fbChnDec => simp [encode, op, chnDecOp, operandLen]

/-! ### A rejected word -/

/-- The kind that a rejected word fails with is R241's. -/
theorem rejectCommand_of_decode_reject {e : DecodeError} (h : decode s.cmd = .reject e) :
    ∃ k, s.firstError = some k ∧ s.rejectCommand e = s.raise k := by
  unfold decode at h
  split_ifs at h with reserved alg fn rnd mode <;> cases h
  · exact ⟨.illegalCommand, if_pos (by tauto), rfl⟩
  · exact ⟨.illegalCommand, if_pos (by tauto), rfl⟩
  · exact ⟨.illegalCommand, if_pos (by tauto), rfl⟩
  · obtain ⟨halg, hrnd⟩ := rnd
    exact ⟨.illegalCommand, if_pos (by simp [halg, hrnd]), rfl⟩
  · obtain ⟨halg, hfn, hmode⟩ := mode
    by_cases hlen : s.maxLen < s.len
    · exact ⟨.illegalCommand, if_pos (by simp [hfn, hlen]), if_pos hlen⟩
    · refine ⟨.unsupportedMode, ?_, if_neg hlen⟩
      have hfnval : (fieldFn s.cmd).toNat = 1 := by rw [hfn]; rfl
      unfold State.firstError
      rw [if_neg, if_pos ⟨halg, hfnval, hmode⟩]
      rintro (h | h | h | h | ⟨h, -⟩ | ⟨-, h, -⟩ | ⟨-, h⟩)
      · exact reserved (.inl h)
      · exact reserved (.inr h)
      all_goals omega

/-! ### Output lengths -/

theorem xorBytes_length (s t : List Byte) : (xorBytes s t).length = min s.length t.length :=
  List.length_zipWith

/-- Every keystream block covers 64 bytes, so none of the message is lost. -/
theorem keystreamXor_length (block : Word → KeystreamBlock) (n : Nat) (c : Word) {d : List Byte}
    (hd : d.length ≤ 64 * n) : (keystreamXor block n c d).length = d.length := by
  induction n generalizing c d with
  | zero => rw [List.eq_nil_of_length_eq_zero (Nat.le_zero.mp hd)]; rfl
  | succ n ih =>
    have hrest : (d.drop 64).length ≤ 64 * n := by rw [List.length_drop]; omega
    rw [keystreamXor, List.length_append, ih _ hrest, xorBytes_length, List.length_take, List.length_drop,
      Vector.length_toList]
    omega

section
variable (a : ArxCipher) (np ivp : Bool) (halves : FeistelLoop) (c : Word) (ops : Operands)

theorem keystreamOp_output_length : ((keystreamOp a np).output c ops).length = 64 := Vector.length_toList

theorem xorOp_output_length : ((xorOp a np).output c ops).length = (ops .din).length :=
  keystreamXor_length _ _ _ (by unfold ceilDiv; omega)

theorem blockOp_output_length : ((blockOp halves).output c ops).length = 8 := Vector.length_toList

theorem indOp_output_length : ((indOp halves).output c ops).length = 8 * ceilDiv (ops .din).length 8 := by
  simp [indOp]

theorem chnEncOp_output_length :
    ((chnEncOp halves ivp).output c ops).length = 8 * ceilDiv (ops .din).length 8 := by
  simp [chnEncOp]

theorem chnDecOp_output_length :
    ((chnDecOp halves ivp).output c ops).length = 8 * ceilDiv (ops .din).length 8 := by
  simp [chnDecOp]

end

/-- The length of a result is the `OLEN` that R89 gives the command. -/
theorem output_length (h : decode s.cmd = .ok i) (hpass : firstFailure ((op i).checks s) = none)
    (hwritten : ∀ b ∈ (op i).reads, (operand s b).isSome = true) :
    ((op i).output s.ctr (operands s (op i).reads)).length = s.expectedOlen := by
  obtain ⟨hcmd, -⟩ := encodeOfDecode s.cmd i h
  have hdin (hb : .din ∈ (op i).reads) : (operands s (op i).reads .din).length = s.len :=
    operands_length hb (hwritten _ hb)
  unfold State.expectedOlen
  simp only [wordIsArx, ← hcmd]
  cases i with
  | rfcBlk | estBlk => simp [encode, op, keystreamOp_output_length]
  | rfcXor | estXor =>
    rw [op, xorOp_output_length]
    refine (hdin (by simp [op, xorOp])).trans ?_
    simp [encode]
  | faEnc | faDec | fbEnc | fbDec =>
    obtain ⟨hlen, -⟩ := blockChecks_pass.mp hpass
    simp [encode, op, blockOp_output_length, hlen, ceilDiv]
  | faIndEnc | faIndDec | fbIndEnc | fbIndDec =>
    rw [op, indOp_output_length]
    refine (congrArg (8 * ceilDiv · 8) (hdin (by simp [op, indOp]))).trans ?_
    simp [encode]
  | faChnEnc | fbChnEnc =>
    rw [op, chnEncOp_output_length]
    refine (congrArg (8 * ceilDiv · 8) (hdin (by simp [op, chnEncOp]))).trans ?_
    simp [encode]
  | faChnDec | fbChnDec =>
    rw [op, chnDecOp_output_length]
    refine (congrArg (8 * ceilDiv · 8) (hdin (by simp [op, chnDecOp]))).trans ?_
    simp [encode]

/-! ### A completion -/

/-- A command word is rejected, and then fails with the kind of R241, or is an operation with its checks. -/
theorem runCommand_eq (s : State) :
    (∃ e, s.firstError = some e ∧ s.runCommand = .next (s.raise e)) ∨
      ∃ i, decode s.cmd = .ok i ∧ s.firstError = firstFailure ((op i).checks s) ∧
        s.runCommand = (op i).run s := by
  unfold State.runCommand State.fetch
  cases h : decode s.cmd with
  | ok i => exact .inr ⟨i, rfl, firstError_of_decode_ok h, exec_eq_run i s⟩
  | reject e =>
    obtain ⟨k, hk, heq⟩ := rejectCommand_of_decode_reject h
    exact .inl ⟨k, hk, by simp only [heq]⟩

/-- Everything that a completion can do, and when. -/
theorem runCommand_cases (s : State) :
    (∃ e, s.firstError = some e ∧ s.runCommand = .next (s.raise e)) ∨
    (s.firstError = none ∧ ¬ s.OperandsWritten ∧ ∃ b, s.runCommand = .refused (.unwrittenByte b)) ∨
    (s.firstError = none ∧ s.OperandsWritten ∧
      ∃ out w, out.length = s.expectedOlen ∧ s.runCommand = .next (s.succeed out w)) := by
  rcases runCommand_eq s with hfailed | ⟨i, hdecode, hfirst, hrun⟩
  · exact .inl hfailed
  · rw [hfirst, hrun, operandsWritten_iff hdecode]
    rcases (op i).run_cases s with hfailed | ⟨hpass, ⟨b, hb, hnone, heq⟩ | ⟨hall, heq⟩⟩
    · exact .inl hfailed
    · exact .inr (.inl ⟨hpass, fun hall => by simpa [hnone] using hall b hb, b, heq⟩)
    · exact .inr (.inr ⟨hpass, hall, _, _, output_length hdecode hpass hall, heq⟩)

theorem runCommand_of_firstError {e : ErrKind} (he : s.firstError = some e) :
    s.runCommand = .next (s.raise e) := by
  rcases runCommand_cases s with ⟨e', he', heq⟩ | ⟨hnone, -⟩ | ⟨hnone, -⟩
  · cases he.symm.trans he'
    exact heq
  · cases he.symm.trans hnone
  · cases he.symm.trans hnone

theorem runCommand_of_pass (hpass : s.firstError = none) (hwritten : s.OperandsWritten) :
    ∃ out w, out.length = s.expectedOlen ∧ s.runCommand = .next (s.succeed out w) := by
  rcases runCommand_cases s with ⟨e, he, -⟩ | ⟨-, hunwritten, -⟩ | ⟨-, -, hdone⟩
  · cases he.symm.trans hpass
  · exact absurd hwritten hunwritten
  · exact hdone

end

end Sys2Proof.Proofs.Validation

/-! SUPPORT. What a step can do, once: a completion with its failure or its result, or the host's next action.
Settles the statements about steps: the three invariants, validation, the phases, what a step leaves alone and
what the host sees. -/

namespace Sys2Proof.Proofs.Steps

open Sys2Proof Sys2Proof.Machine Sys2Proof.Proofs.Exceptions Sys2Proof.Proofs.Validation

section
variable {s t : State} {a : HostAction} {rest : List HostAction}

/-! ### The host's actions -/

theorem idle_or_busy (p : Phase) : p = .idle ∨ p = .busy := by
  cases p with
  | idle => exact .inl rfl
  | busy => exact .inr rfl

theorem hostAct_write_of_idle {w : HostWrite} (h : s.phase = .idle) :
    s.hostAct (.write w) = s.hostWrite w := by
  simp only [State.hostAct, h]

theorem hostAct_write_of_busy {w : HostWrite} (h : s.phase = .busy) :
    s.hostAct (.write w) = .refused .writeWhileBusy := by
  simp only [State.hostAct, h]

theorem hostAct_start_of_idle (h : s.phase = .idle) : s.hostAct .start = .next s.start := by
  simp only [State.hostAct, h]

theorem hostAct_start_of_busy (h : s.phase = .busy) : s.hostAct .start = .next s := by
  simp only [State.hostAct, h]

theorem step_host (hscript : s.script = a :: rest) (hturn : ¬ (s.phase = .busy ∧ a = .wait)) :
    step s = State.hostAct { s with script := rest } a := by
  simp only [step, State.advance, hscript, if_neg hturn]

theorem step_of_idle (hphase : s.phase = .idle) (hscript : s.script = a :: rest) :
    step s = State.hostAct { s with script := rest } a :=
  step_host hscript fun ⟨hbusy, _⟩ => absurd (hbusy.symm.trans hphase) nofun

theorem step_of_not_wait (ha : a ≠ .wait) (hscript : s.script = a :: rest) :
    step s = State.hostAct { s with script := rest } a :=
  step_host hscript fun ⟨_, hwait⟩ => ha hwait

theorem step_idle_nil (hphase : s.phase = .idle) (hscript : s.script = []) : step s = .next s := by
  simp only [step, State.advance, hscript, hphase]

theorem step_reset (hscript : s.script = .reset :: rest) :
    step s = .next (State.resetEngine { s with script := rest }) := by
  rw [step_of_not_wait (by decide) hscript]; rfl

theorem step_start (hphase : s.phase = .idle) (hscript : s.script = .start :: rest) :
    step s = .next (State.start { s with script := rest }) := by
  rw [step_of_idle hphase hscript]
  exact hostAct_start_of_idle hphase

theorem step_write {w : HostWrite} (hphase : s.phase = .idle) (hscript : s.script = .write w :: rest) :
    step s = State.hostWrite { s with script := rest } w := by
  rw [step_of_idle hphase hscript]
  exact hostAct_write_of_idle hphase

/-- A host write changes command registers and input buffers only: a register, or one buffer within its
extent. -/
theorem hostWrite_next_cases {w : HostWrite} (h : s.hostWrite w = .next t) :
    t = { s with cmd := t.cmd, klen := t.klen, nlen := t.nlen, ivlen := t.ivlen, ctr := t.ctr,
                 len := t.len } ∨
    ∃ b off bs, off + bs.length ≤ s.extent b ∧ t = s.setBuf b (Memory.writeBytes (s.buf b) off bs) := by
  cases w with
  | bytes b off bs =>
    rcases s.hostWrite_bytes_cases b off bs with ⟨hfits, heq⟩ | ⟨-, heq⟩ <;> rw [heq] at h <;> cases h
    exact .inr ⟨b, off, bs, hfits, rfl⟩
  | cmd | klen | nlen | ivlen | ctr | len => cases h; exact .inl rfl

theorem hostWrite_frame {w : HostWrite} (h : s.hostWrite w = .next t) :
    t.phase = s.phase ∧ t.status = s.status ∧ t.olen = s.olen ∧ t.dout = s.dout ∧ t.work = s.work ∧
      t.maxLen = s.maxLen := by
  rcases hostWrite_next_cases h with ht | ⟨b, off, bs, -, ht⟩ <;> rw [ht]
  · exact ⟨rfl, rfl, rfl, rfl, rfl, rfl⟩
  · simp

/-- Everything that a host action can lead to. -/
theorem hostAct_next_cases (h : s.hostAct a = .next t) :
    (a = .start ∧ s.phase = .idle ∧ t = s.start) ∨ (a = .reset ∧ t = s.resetEngine) ∨ t = s ∨
      ∃ w, s.phase = .idle ∧ s.hostWrite w = .next t := by
  cases a with
  | reset => cases h; exact .inr (.inl ⟨rfl, rfl⟩)
  | wait => cases h; exact .inr (.inr (.inl rfl))
  | start =>
    cases hphase : s.phase with
    | idle =>
      cases (hostAct_start_of_idle hphase).symm.trans h
      exact .inl ⟨rfl, rfl, rfl⟩
    | busy =>
      cases (hostAct_start_of_busy hphase).symm.trans h
      exact .inr (.inr (.inl rfl))
  | write w =>
    cases hphase : s.phase with
    | idle => exact .inr (.inr (.inr ⟨w, rfl, (hostAct_write_of_idle hphase).symm.trans h⟩))
    | busy => cases (hostAct_write_of_busy hphase).symm.trans h

/-! ### Any step -/

/-- The two ways a completion ends a command. -/
def Completed (s t : State) : Prop :=
  (∃ e, s.firstError = some e ∧ t = s.raise e) ∨
    (s.firstError = none ∧ ∃ out w, out.length = s.expectedOlen ∧ t = s.succeed out w)

theorem completed_of_ready (hready : s.Ready) (h : step s = .next t) : Completed s t := by
  rw [step_eq_runCommand_of_ready hready] at h
  rcases runCommand_cases s with ⟨e, he, heq⟩ | ⟨-, -, b, heq⟩ | ⟨hnone, -, out, w, hlen, heq⟩ <;>
    cases heq.symm.trans h
  · exact .inl ⟨e, he, rfl⟩
  · exact .inr ⟨hnone, out, w, hlen, rfl⟩

theorem Completed.phase (h : Completed s t) : t.phase = .idle := by
  rcases h with ⟨e, -, rfl⟩ | ⟨-, out, w, -, rfl⟩ <;> rfl

theorem Completed.tag (h : Completed s t) : statusTag t.status = 1 ∨ statusTag t.status = 2 := by
  rcases h with ⟨e, -, rfl⟩ | ⟨-, out, w, -, rfl⟩
  · exact .inr (statusTag_failure e)
  · exact .inl statusTag_success

theorem Completed.sameCommand (h : Completed s t) : SameCommand s t := by
  rcases h with ⟨e, -, rfl⟩ | ⟨-, out, w, -, rfl⟩ <;>
    exact ⟨rfl, rfl, rfl, rfl, rfl, rfl, rfl, rfl, rfl, rfl, rfl, rfl⟩

/-- Everything that a step to a next state can be. -/
theorem step_next_cases (h : step s = .next t) :
    (s.Ready ∧ Completed s t) ∨ (s.phase = .idle ∧ t = s) ∨
      ∃ a rest, s.script = a :: rest ∧ State.hostAct { s with script := rest } a = .next t := by
  rcases step_cases s with ⟨-, hidle, heq⟩ | ⟨hbusy, hturn, -⟩ | ⟨a, rest, hscript, -, heq⟩
  · exact .inr (.inl ⟨hidle, (Host.Outcome.next.inj (heq.symm.trans h)).symm⟩)
  · have hready : s.Ready := by
      refine ⟨hbusy, hturn.imp_right ?_⟩
      rintro ⟨rest, hrest⟩
      rw [hrest]; rfl
    exact .inl ⟨hready, completed_of_ready hready h⟩
  · exact .inr (.inr ⟨a, rest, hscript, heq.symm.trans h⟩)

end

/-! ### The invariants -/

/-- The kinds that the engine raises are those of the listed words. -/
theorem statusFailure_legal {e : ErrKind} (he : e ≠ .decryptionFailed) :
    statusFailure e ∈ [0x00#8, 0x02#8, 0x14#8, 0x24#8, 0x34#8, 0x44#8, 0x54#8, 0x64#8, 0xf4#8] := by
  cases e with
  | decryptionFailed => exact absurd rfl he
  | invalidKeyLength | invalidIvLength | invalidNonceLength | missingIV | missingNonce | unsupportedMode
  | illegalCommand => decide

/-- Settles O36: a failure's kind is never 7 (R238), and every other word is fixed. -/
theorem stepKeepsStatusLegal : Obligations.StepKeepsStatusLegal := by
  unfold Obligations.StepKeepsStatusLegal
  intro s t hs hstep
  rcases step_next_cases hstep with ⟨hready, hdone⟩ | ⟨-, rfl⟩ | ⟨a, rest, -, hact⟩
  · obtain ⟨-, hnever⟩ := decryptionFailedNeverRaised
    have hcode := hnever s t hready hstep
    rcases hdone with ⟨e, -, rfl⟩ | ⟨-, out, w, -, rfl⟩
    · rw [State.raise_status, statusErr_failure] at hcode
      exact .inr ⟨rfl, statusFailure_legal fun he => hcode (he ▸ rfl)⟩
    · exact .inr ⟨rfl, by rw [State.succeed_status]; decide⟩
  · exact hs
  · rcases hostAct_next_cases hact with ⟨-, -, rfl⟩ | ⟨-, rfl⟩ | rfl | ⟨w, -, hwrite⟩
    · exact .inl ⟨rfl, rfl⟩
    · exact .inr ⟨rfl, by rw [State.resetEngine_status]; decide⟩
    · exact hs
    · obtain ⟨hphase, hstatus, -⟩ := hostWrite_frame hwrite
      unfold State.StatusLegal
      rw [hphase, hstatus]
      exact hs

theorem extent_eq_of_maxLen_eq {s t : State} (h : t.maxLen = s.maxLen) (b : InBuf) :
    t.extent b = s.extent b := by
  cases b with
  | key | nonce | iv => rfl
  | din => exact h

theorem buffersCanonical_of_buf_eq {s t : State} (hs : s.BuffersCanonical) (hbuf : ∀ b, t.buf b = s.buf b)
    (hmax : t.maxLen = s.maxLen) (hdout : Memory.wf t.dout = true) : t.BuffersCanonical := by
  refine ⟨fun b => ?_, hdout⟩
  rw [hbuf, extent_eq_of_maxLen_eq hmax]
  exact hs.1 b

theorem buf_eq_of_sameCommand {s t : State} (h : SameCommand s t) (b : InBuf) : t.buf b = s.buf b := by
  obtain ⟨-, -, hkey, -, hnonce, -, hiv, -, -, hdin, -⟩ := h
  cases b with
  | key => exact hkey
  | nonce => exact hnonce
  | iv => exact hiv
  | din => exact hdin

theorem maxLen_eq_of_sameCommand {s t : State} (h : SameCommand s t) : t.maxLen = s.maxLen := by
  obtain ⟨-, -, -, -, -, -, -, -, -, -, hmax, -⟩ := h
  exact hmax

theorem script_eq_of_sameCommand {s t : State} (h : SameCommand s t) : t.script = s.script := by
  obtain ⟨-, -, -, -, -, -, -, -, -, -, -, hscript⟩ := h
  exact hscript

theorem Completed.dout_wf {s t : State} (h : Completed s t) : Memory.wf t.dout = true := by
  rcases h with ⟨e, -, rfl⟩ | ⟨-, out, w, -, rfl⟩
  · rfl
  · exact Memory.wf_writeBytes _ _ _ rfl

theorem buffersCanonical_setBuf {s : State} (hs : s.BuffersCanonical) {b : InBuf} {off : Nat} {bs : List Byte}
    (hfits : off + bs.length ≤ s.extent b) :
    (s.setBuf b (Memory.writeBytes (s.buf b) off bs)).BuffersCanonical := by
  obtain ⟨hin, hout⟩ := hs
  refine ⟨fun c => ?_, by rwa [State.setBuf_dout]⟩
  rw [extent_eq_of_maxLen_eq (s.setBuf_maxLen b _)]
  by_cases hc : c = b
  · subst hc
    obtain ⟨hwf, hbound⟩ := hin c
    rw [State.buf_setBuf_same]
    refine ⟨Memory.wf_writeBytes _ _ _ hwf, fun a ha => ?_⟩
    rw [Memory.read_writeBytes, if_neg (by omega), hbound a ha]
  · rw [State.buf_setBuf_other _ _ _ _ hc]
    exact hin c

/-- Settles O37: only a host write changes an input buffer, and it stays within the extent. -/
theorem stepKeepsBuffersCanonical : Obligations.StepKeepsBuffersCanonical := by
  unfold Obligations.StepKeepsBuffersCanonical
  intro s t hs hstep
  rcases step_next_cases hstep with ⟨-, hdone⟩ | ⟨-, rfl⟩ | ⟨a, rest, -, hact⟩
  · have hsame := hdone.sameCommand
    exact buffersCanonical_of_buf_eq hs (buf_eq_of_sameCommand hsame) (maxLen_eq_of_sameCommand hsame)
      hdone.dout_wf
  · exact hs
  · have hrest : State.BuffersCanonical { s with script := rest } :=
      buffersCanonical_of_buf_eq hs (fun b => by cases b <;> rfl) rfl hs.2
    rcases hostAct_next_cases hact with ⟨-, -, rfl⟩ | ⟨-, rfl⟩ | rfl | ⟨w, -, hwrite⟩
    · exact buffersCanonical_of_buf_eq hs (fun b => by cases b <;> rfl) rfl hs.2
    · exact ⟨fun b => by cases b <;> exact ⟨rfl, fun _ _ => rfl⟩, rfl⟩
    · exact hrest
    · rcases hostWrite_next_cases hwrite with ht | ⟨b, off, bs, hfits, rfl⟩
      · rw [ht]
        exact buffersCanonical_of_buf_eq hs (fun b => by cases b <;> rfl) rfl hs.2
      · exact buffersCanonical_setBuf hrest hfits

/-! ### `DOUT` and `OLEN` (R28, R51) -/

/-- A `LEN` above `MAX_LEN` is the first failing check of every command that reads `LEN`. -/
theorem firstError_of_maxLen_lt {s : State} (hlen : s.maxLen < s.len)
    (hreads : ¬ ((fieldAlg s.cmd).toNat < 2 ∧ (fieldFn s.cmd).toNat = 0)) :
    s.firstError = some .illegalCommand := if_pos (by omega)

theorem ceilDiv_mono {a b : Nat} (h : a ≤ b) : ceilDiv a 8 ≤ ceilDiv b 8 := by unfold ceilDiv; omega

/-- A result fits `DOUT`: what is as long as the input is held against `MAX_LEN`. -/
theorem expectedOlen_le_doutExtent {s : State} (hpass : s.firstError = none) :
    s.expectedOlen ≤ s.doutExtent := by
  by_cases hblk : (fieldAlg s.cmd).toNat < 2 ∧ (fieldFn s.cmd).toNat = 0
  · obtain ⟨halg, hfn⟩ := hblk
    have holen : s.expectedOlen = 64 := by
      simp [State.expectedOlen, wordIsArx, halg, BitVec.eq_of_toNat_eq (x := fieldFn s.cmd) (y := 0) hfn]
    exact holen ▸ le_max_left ..
  · have hlen : s.len ≤ s.maxLen := Nat.le_of_not_lt fun h => by
      cases (firstError_of_maxLen_lt h hblk).symm.trans hpass
    have hmono := ceilDiv_mono hlen
    unfold State.expectedOlen State.doutExtent
    split_ifs with harx hfn
    · exact le_max_left ..
    · exact le_max_of_le_right (hlen.trans (by unfold ceilDiv; omega))
    · exact le_max_of_le_right (Nat.mul_le_mul_left 8 hmono)

theorem read_result_isSome (out : List Byte) (a : Nat) :
    (Memory.read (Memory.writeBytes [] 0 out) a).isSome = decide (a < out.length) := by
  rw [Memory.read_result]
  by_cases ha : a < out.length <;> simp [ha]

theorem outputDescribed_of_no_output {t : State} (hmax : t.maxLen ≤ 2 ^ 38) (holen : t.olen = 0)
    (hdout : t.dout = []) : t.OutputDescribed := by
  refine ⟨hmax, holen ▸ Nat.zero_le _, fun a => ?_, fun _ _ => holen⟩
  simp [holen, hdout]

theorem Completed.outputDescribed {s t : State} (h : Completed s t) (hs : s.OutputDescribed) :
    t.OutputDescribed := by
  obtain ⟨hmax, -⟩ := hs
  rcases h with ⟨e, -, rfl⟩ | ⟨hpass, out, w, hlen, rfl⟩
  · exact outputDescribed_of_no_output hmax rfl rfl
  · refine ⟨hmax, hlen.trans_le (expectedOlen_le_doutExtent hpass), read_result_isSome out, fun _ htag => ?_⟩
    exact absurd statusTag_success htag

/-- Settles O38: a result fits and is listed whole, everything else leaves the output or clears it. -/
theorem stepKeepsOutputDescribed : Obligations.StepKeepsOutputDescribed := by
  unfold Obligations.StepKeepsOutputDescribed
  intro s t hs hstep
  rcases step_next_cases hstep with ⟨-, hdone⟩ | ⟨-, rfl⟩ | ⟨a, rest, -, hact⟩
  · exact hdone.outputDescribed hs
  · exact hs
  · obtain ⟨hmax, hfits, hbytes, hidle⟩ := hs
    rcases hostAct_next_cases hact with ⟨-, -, rfl⟩ | ⟨-, rfl⟩ | rfl | ⟨w, -, hwrite⟩
    · exact ⟨hmax, hfits, hbytes, nofun⟩
    · exact outputDescribed_of_no_output hmax rfl rfl
    · exact ⟨hmax, hfits, hbytes, hidle⟩
    · obtain ⟨hphase, hstatus, holen, hdout, -, hmaxLen⟩ := hostWrite_frame hwrite
      unfold State.OutputDescribed State.doutExtent
      rw [hphase, hstatus, holen, hdout, hmaxLen]
      exact ⟨hmax, hfits, hbytes, hidle⟩

/-- Settles O39: the reset state's fields, one by one. -/
theorem resetMeetsInvariants : Obligations.ResetMeetsInvariants := by
  unfold Obligations.ResetMeetsInvariants
  refine ⟨.inr ⟨rfl, by decide⟩, ⟨fun b => ?_, rfl⟩, outputDescribed_of_no_output le_rfl rfl rfl⟩
  cases b <;> exact ⟨rfl, fun _ _ => rfl⟩

/-! ### Validation and completion -/

section
variable {s : State}

theorem failedFrom_raise (s : State) (e : ErrKind) : FailedFrom s (s.raise e) e := by
  refine ⟨rfl, ?_, rfl, fun _ => rfl, ⟨rfl, rfl, rfl, rfl, rfl, rfl, rfl, rfl, rfl, rfl, rfl, rfl⟩, rfl⟩
  cases e <;> rfl

theorem succeeded_succeed (s : State) {out : List Byte} (w : Work) {n : Nat} {f : Nat → Byte}
    (hlen : out.length = n) (hbytes : ∀ a, a < n → out[a]? = some (f a)) :
    Succeeded (s.succeed out w) n f := by
  refine ⟨rfl, statusSuccess_eq, hlen, fun a => ?_⟩
  rw [State.succeed_dout, Memory.read_result]
  split_ifs with ha
  · exact hbytes a ha
  · exact List.getElem?_eq_none (hlen ▸ Nat.le_of_not_lt ha)

theorem sameCommand_succeed (s : State) (out : List Byte) (w : Work) : SameCommand s (s.succeed out w) :=
  ⟨rfl, rfl, rfl, rfl, rfl, rfl, rfl, rfl, rfl, rfl, rfl, rfl⟩

theorem step_of_firstError {e : ErrKind} (hready : s.Ready) (he : s.firstError = some e) :
    step s = .next (s.raise e) :=
  (step_eq_runCommand_of_ready hready).trans (runCommand_of_firstError he)

theorem step_of_pass (hready : s.Ready) (hpass : s.firstError = none) (hwritten : s.OperandsWritten) :
    ∃ out w, out.length = s.expectedOlen ∧ step s = .next (s.succeed out w) := by
  rw [step_eq_runCommand_of_ready hready]
  exact runCommand_of_pass hpass hwritten

end

/-- Settles O8: a completion with a failing check is `State.raise` of its kind. -/
theorem firstFailingCheckIsReported : Obligations.FirstFailingCheckIsReported := by
  unfold Obligations.FirstFailingCheckIsReported
  exact fun s e hready he => ⟨_, step_of_firstError hready he, failedFrom_raise s e⟩

/-- Settles O57: the check of `LEN` against `MAX_LEN` stands in the first line of R241. -/
theorem inputLongerThanMaxLenFails : Obligations.InputLongerThanMaxLenFails := by
  unfold Obligations.InputLongerThanMaxLenFails
  exact fun s hready hlen hreads =>
    ⟨_, step_of_firstError hready (firstError_of_maxLen_lt hlen hreads), failedFrom_raise s _⟩

/-- Settles O9: the bytes are those of the result the step gives. -/
theorem commandWithoutFailingCheckSucceeds : Obligations.CommandWithoutFailingCheckSucceeds := by
  unfold Obligations.CommandWithoutFailingCheckSucceeds
  intro s hready hpass hwritten
  obtain ⟨out, w, hlen, hstep⟩ := step_of_pass hready hpass hwritten
  refine ⟨_, fun a => out.getD a 0, hstep, succeeded_succeed s w hlen fun a ha => ?_,
    sameCommand_succeed s out w⟩
  have hin : a < out.length := hlen ▸ ha
  rw [List.getD_eq_getElem _ _ hin, List.getElem?_eq_getElem hin]

/-- Settles O55: of the three ways a completion ends, one is the refusal. -/
theorem refusedOnlyForUnwrittenOperands : Obligations.RefusedOnlyForUnwrittenOperands := by
  unfold Obligations.RefusedOnlyForUnwrittenOperands
  intro s hready
  rw [step_eq_runCommand_of_ready hready]
  rcases runCommand_cases s with ⟨e, he, heq⟩ | ⟨hpass, hunwritten, b, heq⟩ | ⟨-, hwritten, out, w, -, heq⟩ <;>
    rw [heq]
  · exact ⟨iff_of_false nofun (by simp [he]), nofun⟩
  · exact ⟨iff_of_true ⟨_, rfl⟩ ⟨hpass, hunwritten⟩, nofun⟩
  · exact ⟨iff_of_false nofun fun h => h.2 hwritten, nofun⟩

/-- Settles O42: neither way of ending a command writes what the host writes. -/
theorem engineWritesNoCommandRegister : Obligations.EngineWritesNoCommandRegister := by
  unfold Obligations.EngineWritesNoCommandRegister
  exact fun s t hready hstep => (completed_of_ready hready hstep).sameCommand

/-! ### Phases -/

/-- Settles O44: of all that a step can be, `START` is the only way to busy, and completion and reset are the
ways back. -/
theorem phaseChangesOnlyAtStartCompletionReset : Obligations.PhaseChangesOnlyAtStartCompletionReset := by
  unfold Obligations.PhaseChangesOnlyAtStartCompletionReset
  intro s t hstep
  rcases step_next_cases hstep with ⟨hready, hdone⟩ | ⟨hidle, rfl⟩ | ⟨a, rest, hscript, hact⟩
  · exact ⟨fun _ hbusy => absurd (hbusy.symm.trans hdone.phase) nofun, fun _ _ => .inl ⟨hready, hdone.tag⟩⟩
  · exact ⟨fun _ hbusy => absurd (hbusy.symm.trans hidle) nofun,
      fun hbusy _ => absurd (hbusy.symm.trans hidle) nofun⟩
  · rw [hscript]
    rcases hostAct_next_cases hact with ⟨rfl, hidle, -⟩ | ⟨rfl, rfl⟩ | rfl | ⟨w, hidle, hwrite⟩
    · exact ⟨fun _ _ => rfl, fun hbusy _ => absurd (hbusy.symm.trans hidle) nofun⟩
    · exact ⟨fun _ hbusy => absurd hbusy nofun, fun _ _ => .inr ⟨rfl, rfl⟩⟩
    · exact ⟨fun hidle hbusy => absurd (hbusy.symm.trans hidle) nofun,
        fun hbusy hidle => absurd (hbusy.symm.trans hidle) nofun⟩
    · obtain ⟨hphase, -⟩ := hostWrite_frame hwrite
      exact ⟨fun _ hbusy => absurd (hbusy.symm.trans (hphase.trans hidle)) nofun,
        fun hbusy _ => absurd (hbusy.symm.trans hidle) nofun⟩

theorem run_succ_of_step {s t : State} (n : Nat) (h : step s = .next t) :
    Sys2Proof.core.run (n + 1) s = Sys2Proof.core.run n t := by
  have hcore : Sys2Proof.core.step s = .next t := h
  simp only [Host.Core.run, hcore]

/-- A ready command whose operands are written completes. -/
theorem step_completes {s : State} (hready : s.Ready) (hwritten : s.OperandsWritten) :
    ∃ t, step s = .next t ∧ Completed s t := by
  rw [step_eq_runCommand_of_ready hready]
  rcases runCommand_cases s with ⟨e, he, heq⟩ | ⟨-, hunwritten, -⟩ | ⟨hpass, -, out, w, hlen, heq⟩
  · exact ⟨_, heq, .inl ⟨e, he, rfl⟩⟩
  · exact absurd hwritten hunwritten
  · exact ⟨_, heq, .inr ⟨hpass, out, w, hlen, rfl⟩⟩

/-- No word that a completion leaves has `BUSY` set. -/
theorem Completed.not_busy {s t : State} (h : Completed s t) : statusBusy t.status = false := by
  rcases h with ⟨e, -, rfl⟩ | ⟨-, out, w, -, rfl⟩
  · exact statusBusy_failure e
  · exact statusBusy_success

/-- Settles O45: `START`, the completion, and the wait, which an idle engine lets pass. -/
theorem startedCommandCompletes : Obligations.StartedCommandCompletes := by
  unfold Obligations.StartedCommandCompletes
  intro s rest hidle hscript hwritten
  let started := State.start { s with script := .wait :: rest }
  obtain ⟨t, hstep, hdone⟩ := step_completes (s := started) ⟨rfl, .inr rfl⟩ hwritten
  have htscript : t.script = .wait :: rest := script_eq_of_sameCommand hdone.sameCommand
  refine ⟨{ t with script := rest }, ?_, hdone.phase, rfl, hdone.not_busy, hdone.tag⟩
  rw [run_succ_of_step 2 (step_start hidle hscript), run_succ_of_step 1 hstep,
    run_succ_of_step 0 (step_of_idle hdone.phase htscript)]
  rfl

/-! ### What the host sees (R28, R37) -/

section
variable {s : State}

theorem read_hostView_dout (s : State) (a : Nat) :
    Memory.read s.hostView.dout a =
      if statusTag s.status = 1 ∧ a < s.olen then Memory.read s.dout a else none := s.read_visibleDout a

theorem hidden_of_tag (h : statusTag s.status ≠ 1) (a : Nat) : Memory.read s.hostView.dout a = none := by
  rw [read_hostView_dout, if_neg fun h' => h h'.1]

theorem tag_of_busy (hlegal : s.StatusLegal) (hbusy : s.phase = .busy) : statusTag s.status ≠ 1 := by
  rcases hlegal with ⟨-, hstatus⟩ | ⟨hidle, -⟩
  · rw [hstatus]; decide
  · exact absurd (hbusy.symm.trans hidle) nofun

theorem read_hostView_dout_succeed (out : List Byte) (w : Work) (a : Nat) :
    Memory.read (s.succeed out w).hostView.dout a = out[a]? := by
  rw [read_hostView_dout, State.succeed_dout, Memory.read_result, State.succeed_status, State.succeed_olen]
  split_ifs with h
  · rfl
  · exact (List.getElem?_eq_none (Nat.le_of_not_lt fun ha => h ⟨statusTag_success, ha⟩)).symm

end

/-- Settles O56: bytes are shown only under `TAG = 1`, which `START`, a failure and a reset do not leave. -/
theorem hostSeesOutputOnlyAfterSuccess : Obligations.HostSeesOutputOnlyAfterSuccess := by
  unfold Obligations.HostSeesOutputOnlyAfterSuccess
  intro hidden
  refine ⟨fun s => ⟨rfl, rfl, hidden_of_tag, fun htag a => ?_⟩, fun s rest hidle hscript => ?_,
    fun s t hlegal hstep hbusy => ?_, fun s e hready he => ?_, fun s rest hscript => ?_,
    fun s hready hpass hwritten => ?_⟩
  · simp only [read_hostView_dout, htag, true_and]
  · exact ⟨_, step_start hidle hscript, rfl, hidden_of_tag (by rw [State.start_status]; decide)⟩
  · exact hidden_of_tag (tag_of_busy (stepKeepsStatusLegal s t hlegal hstep) hbusy)
  · refine ⟨_, step_of_firstError hready he, rfl, hidden_of_tag ?_⟩
    rw [State.raise_status, statusTag_failure]
    decide
  · exact ⟨_, step_reset hscript, rfl, hidden_of_tag (by rw [State.resetEngine_status]; decide)⟩
  · obtain ⟨out, w, hlen, hstep⟩ := step_of_pass hready hpass hwritten
    refine ⟨_, hstep, statusTag_success, hlen, fun a => ?_⟩
    rw [read_hostView_dout_succeed, State.succeed_dout, Memory.read_result, ← hlen]
    exact ⟨rfl, by simp⟩

/-! ### The host's actions, one by one -/

/-- Settles O7: a ready engine's step is its running command, and `withFetchWord` leaves the engine ready. -/
theorem stepRunsDecodedCommand : Obligations.StepRunsDecodedCommand := by
  unfold Obligations.StepRunsDecodedCommand
  have hrun (s : State) (i : Instr) (hready : s.Ready) (hdecode : decode s.cmd = .ok i) :
      step s = exec i s := by
    rw [step_eq_runCommand_of_ready hready, State.runCommand, State.fetch, hdecode]
  exact ⟨hrun, fun s i w hdecode => hrun _ i ⟨rfl, .inr rfl⟩ hdecode⟩

/-- Settles O49: `State.start` sets `phase` and `STATUS` only. -/
theorem startSetsBusy : Obligations.StartSetsBusy := by
  unfold Obligations.StartSetsBusy
  intro s rest hidle hscript
  exact ⟨_, step_start hidle hscript, rfl, statusBusy_running, statusTag_running, statusErr_running, rfl,
    ⟨rfl, rfl, rfl, rfl, rfl, rfl, rfl, rfl, rfl, rfl, rfl, rfl⟩, rfl, rfl, rfl⟩

/-- Settles O50: a host's reset happens whatever the phase. -/
theorem resetAbandonsAndClears : Obligations.ResetAbandonsAndClears := by
  unfold Obligations.ResetAbandonsAndClears
  exact fun s rest hscript => ⟨_, step_reset hscript, rfl, rfl, rfl, fun _ => rfl, rfl, rfl⟩

/-- Settles O51: only a wait lets a busy engine finish first; any other action happens at once. -/
theorem hostWhileBusy : Obligations.HostWhileBusy := by
  unfold Obligations.HostWhileBusy
  refine fun s rest hbusy => ⟨fun hscript => ?_, fun w hscript => ?_⟩
  · rw [step_of_not_wait (by nofun) hscript]
    exact hostAct_start_of_busy hbusy
  · rw [step_of_not_wait (by nofun) hscript]
    exact hostAct_write_of_busy hbusy

/-- Settles O52: an idle engine completes nothing. -/
theorem idleEngineWaits : Obligations.IdleEngineWaits := by
  unfold Obligations.IdleEngineWaits
  exact fun s rest hidle => ⟨step_idle_nil hidle, step_of_idle hidle⟩

/-- Settles O53: the bytes are read back by the law of `Memory.writeBytes`; a buffer is replaced alone. -/
theorem hostWritesBytes : Obligations.HostWritesBytes := by
  unfold Obligations.HostWritesBytes
  intro s rest b off bs hidle hscript
  have hextent : State.extent { s with script := rest } b = s.extent b := extent_eq_of_maxLen_eq rfl b
  rw [step_write hidle hscript, ← hextent]
  rcases State.hostWrite_bytes_cases { s with script := rest } b off bs with ⟨hfits, heq⟩ | ⟨houtside, heq⟩
  · refine ⟨fun _ => ⟨_, heq, ?_, fun a => ?_, fun c hc => ?_, ?_⟩, fun h => ?_⟩
    · rw [State.setBuf_script]
    · rw [State.buf_setBuf_same, Memory.read_writeBytes]
      cases b <;> rfl
    · rw [State.buf_setBuf_other _ _ _ _ hc]
      cases c <;> rfl
    · rw [State.buf_setBuf_same]
    · omega
  · exact ⟨fun h => by omega, fun _ => heq⟩

/-- Settles O54: each write is one record update. -/
theorem hostWritesRegisters : Obligations.HostWritesRegisters := by
  unfold Obligations.HostWritesRegisters
  intro s rest v n l hidle
  refine ⟨fun h => ?_, fun h => ?_, fun h => ?_, fun h => ?_, fun h => ?_, fun h => ?_⟩ <;>
    exact step_write hidle h

end Sys2Proof.Proofs.Steps

/-! SUPPORT. What a command's answer depends on: its checks, its operands and `CTR`, and no more. Settles
IgnoredOperandsHaveNoEffect, IgnoredFieldsHaveNoEffect, ResultDependsOnlyOnCommand and
WorkingRegistersAreInvisible. -/

namespace Sys2Proof.Proofs.Independence

open Sys2Proof Sys2Proof.Machine Sys2Proof.Proofs.Exceptions Sys2Proof.Proofs.Command
open Sys2Proof.Proofs.Validation Sys2Proof.Proofs.Steps

/-! ### Ignored operands and fields (R84 to R89) -/

/-- A change of the state that a command's checks, operands and result do not see. -/
structure Ignores (o : Op) (f : State → State) (s : State) : Prop where
  checks : o.checks (f s) = o.checks s
  reads : o.reads.map (operand (f s)) = o.reads.map (operand s)
  output : ∀ ops, o.output (f s).ctr ops = o.output s.ctr ops
  work : ∀ ops, o.work (f s).ctr (f s).work ops = o.work s.ctr s.work ops
  raise : ∀ e, (f s).raise e = f (s.raise e)
  succeed : ∀ out w, (f s).succeed out w = f (s.succeed out w)

theorem exec_of_ignores {i : Instr} {f : State → State} {s : State} (h : Ignores (op i) f s) :
    exec i (f s) = mapNext f (exec i s) := by
  have hcomplete : Host.Outcome.next ((op i).complete (f s)) = mapNext f (.next ((op i).complete s)) := by
    rw [Op.complete, operands_congr h.reads, h.output, h.work, h.succeed]; rfl
  rw [exec_eq_run, exec_eq_run, Op.run, Op.run, State.checked, State.checked, h.checks, hcomplete]
  split
  · exact congrArg Host.Outcome.next (h.raise _)
  · exact readingAll_map f h.reads

/-- Settles O46: the operand table of R89 is what the operations' checks, reads and results leave out. -/
theorem ignoredOperandsHaveNoEffect : Obligations.IgnoredOperandsHaveNoEffect := by
  unfold Obligations.IgnoredOperandsHaveNoEffect
  intro s n l m m' m'' c len dir mode rnd ivp np
  refine ⟨?_, ?_, ?_, ?_⟩ <;> intro f
  · exact ⟨exec_of_ignores ⟨rfl, rfl, fun _ => rfl, fun _ => rfl, fun _ => rfl, fun _ _ => rfl⟩,
      exec_of_ignores ⟨rfl, rfl, fun _ => rfl, fun _ => rfl, fun _ => rfl, fun _ _ => rfl⟩⟩
  · exact ⟨exec_of_ignores ⟨rfl, rfl, fun _ => rfl, fun _ => rfl, fun _ => rfl, fun _ _ => rfl⟩,
      exec_of_ignores ⟨rfl, rfl, fun _ => rfl, fun _ => rfl, fun _ => rfl, fun _ _ => rfl⟩⟩
  · intro i hi
    simp only [List.mem_cons, List.not_mem_nil, or_false] at hi
    obtain rfl | rfl | rfl | rfl | rfl | rfl | rfl | rfl := hi <;>
      exact exec_of_ignores ⟨rfl, rfl, fun _ => rfl, fun _ => rfl, fun _ => rfl, fun _ _ => rfl⟩
  · intro i hi
    simp only [List.mem_cons, List.not_mem_nil, or_false] at hi
    obtain rfl | rfl | rfl | rfl := hi <;>
      exact exec_of_ignores ⟨rfl, rfl, fun _ => rfl, fun _ => rfl, fun _ => rfl, fun _ _ => rfl⟩

theorem exec_eq_of_op_eq {i j : Instr} {s : State} (h : op i = op j) : exec i s = exec j s := by
  rw [exec_eq_run, exec_eq_run, h]

/-- Settles O47: an ignored field is no part of the operation that `op` reads off the instruction. -/
theorem ignoredFieldsHaveNoEffect : Obligations.IgnoredFieldsHaveNoEffect := by
  unfold Obligations.IgnoredFieldsHaveNoEffect
  intro s dir dir' mode mode' rnd rnd' ivp ivp' np np'
  exact ⟨exec_eq_of_op_eq rfl, exec_eq_of_op_eq rfl, exec_eq_of_op_eq rfl, exec_eq_of_op_eq rfl,
    exec_eq_of_op_eq rfl, exec_eq_of_op_eq rfl, exec_eq_of_op_eq rfl, exec_eq_of_op_eq rfl,
    exec_eq_of_op_eq rfl, exec_eq_of_op_eq rfl, exec_eq_of_op_eq rfl, exec_eq_of_op_eq rfl,
    exec_eq_of_op_eq rfl, exec_eq_of_op_eq rfl, exec_eq_of_op_eq rfl, exec_eq_of_op_eq rfl⟩

/-! ### What earlier commands left (R35, R37) -/

/-- The command of `s` in an engine that holds what `r` has in its other fields. -/
def withRemains (s r : State) : State :=
  { s with
    status := r.status, olen := r.olen, dout := r.dout, phase := r.phase, work := r.work
    script := r.script }

/-- Two answers that end a command alike: the same failure, the same output, the same refusal. -/
def EndAlike (s s' : State) (o o' : StepResult) : Prop :=
  (∃ e, o = .next (s.raise e) ∧ o' = .next (s'.raise e)) ∨
    (∃ out w w', o = .next (s.succeed out w) ∧ o' = .next (s'.succeed out w')) ∨
    ∃ b, o = .refused (.unwrittenByte b) ∧ o' = .refused (.unwrittenByte b)

theorem run_endAlike {o : Op} {s s' : State} (hchecks : o.checks s' = o.checks s)
    (hread : o.reads.map (operand s') = o.reads.map (operand s)) (hctr : s'.ctr = s.ctr) :
    EndAlike s s' (o.run s) (o.run s') := by
  have hops := operands_congr hread
  rcases o.run_cases s with ⟨e, he, heq⟩ | ⟨hpass, ⟨b, -, -, heq⟩ | ⟨hall, heq⟩⟩
  · exact .inl ⟨e, heq, o.run_of_failure (hchecks ▸ he)⟩
  · have hpass' : firstFailure (o.checks s') = none := hchecks ▸ hpass
    have hbody := readingAll_map (body := .next (o.complete s)) (fun _ => o.complete s') hread
    rw [Op.run, s.checked_of_none _ _ hpass] at heq
    rw [heq] at hbody
    refine .inr (.inr ⟨b, ?_, ?_⟩)
    · rw [Op.run, s.checked_of_none _ _ hpass, heq]
    · rw [Op.run, s'.checked_of_none _ _ hpass']
      exact hbody
  · have hall' : ∀ b ∈ o.reads, (operand s' b).isSome = true := fun b hb => by
      rw [List.map_inj_left.mp hread b hb]; exact hall b hb
    refine .inr (.inl ⟨_, _, o.work s'.ctr s'.work (operands s' o.reads), heq, ?_⟩)
    rw [o.run_of_written (hchecks ▸ hpass) hall', Op.complete, hops, hctr]

theorem runCommand_of_decode_ok {s : State} {i : Instr} (h : decode s.cmd = .ok i) :
    s.runCommand = (op i).run s := by
  simp only [State.runCommand, State.fetch, h, exec_eq_run]

theorem runCommand_endAlike (s r : State) :
    EndAlike s (withRemains s r) s.runCommand (withRemains s r).runCommand := by
  rcases runCommand_eq s with ⟨e, he, heq⟩ | ⟨i, hdecode, -, heq⟩
  · have he' : (withRemains s r).firstError = some e := he
    exact .inl ⟨e, heq, runCommand_of_firstError he'⟩
  · rw [heq, runCommand_of_decode_ok (s := withRemains s r) hdecode]
    cases i <;> exact run_endAlike rfl rfl rfl

/-- Settles O40: the second engine is the first one's command with other remains. -/
theorem resultDependsOnlyOnCommand : Obligations.ResultDependsOnlyOnCommand := by
  unfold Obligations.ResultDependsOnlyOnCommand
  intro s s' hready hready' hcmd hklen hkey hnlen hnonce hivlen hiv hctr hlen hdin hmax
  have hs' : s' = withRemains s s' := by
    rw [withRemains, ← hcmd, ← hklen, ← hkey, ← hnlen, ← hnonce, ← hivlen, ← hiv, ← hctr, ← hlen, ← hdin,
      ← hmax]
  have halike := runCommand_endAlike s s'
  rw [← hs', ← step_eq_runCommand_of_ready hready, ← step_eq_runCommand_of_ready hready'] at halike
  rcases halike with ⟨e, heq, heq'⟩ | ⟨out, w, w', heq, heq'⟩ | hrefused
  · exact .inl ⟨_, _, heq, heq', rfl, rfl, rfl, rfl⟩
  · exact .inl ⟨_, _, heq, heq', rfl, rfl, rfl, rfl⟩
  · exact .inr hrefused

/-- Two answers that differ in the working registers only. -/
def SameButWork (o o' : StepResult) : Prop :=
  (∃ t w', o = .next t ∧ o' = .next { t with work := w' }) ∨
    (∃ f, o = .fault f ∧ o' = .fault f) ∨ ∃ r, o = .refused r ∧ o' = .refused r

theorem sameButWork_of_endAlike {s : State} {w : Work} {o o' : StepResult}
    (h : EndAlike s { s with work := w } o o') : SameButWork o o' := by
  rcases h with ⟨e, rfl, rfl⟩ | ⟨out, v, v', rfl, rfl⟩ | ⟨b, rfl, rfl⟩
  · exact .inl ⟨_, w, rfl, rfl⟩
  · exact .inl ⟨_, v', rfl, rfl⟩
  · exact .inr (.inr ⟨_, rfl, rfl⟩)

theorem hostWrite_sameButWork (s : State) (w : Work) (hw : HostWrite) :
    SameButWork (s.hostWrite hw) (State.hostWrite { s with work := w } hw) := by
  cases hw with
  | cmd | klen | nlen | ivlen | ctr | len => exact .inl ⟨_, w, rfl, rfl⟩
  | bytes b off bs =>
    have hext : State.extent { s with work := w } b = s.extent b := extent_eq_of_maxLen_eq rfl b
    by_cases hfits : off + bs.length ≤ s.extent b
    · refine .inl ⟨_, w, if_pos hfits, ?_⟩
      rw [State.hostWrite, if_pos (hext ▸ hfits)]
      cases b <;> rfl
    · exact .inr (.inl ⟨_, if_neg hfits, if_neg (hext ▸ hfits)⟩)

theorem hostAct_sameButWork (s : State) (w : Work) (a : HostAction) :
    SameButWork (s.hostAct a) (State.hostAct { s with work := w } a) := by
  cases a with
  | wait => exact .inl ⟨_, w, rfl, rfl⟩
  | reset => exact .inl ⟨_, Work.reset, rfl, rfl⟩
  | start =>
    obtain hphase | hphase := idle_or_busy s.phase
    · exact .inl ⟨_, w, hostAct_start_of_idle hphase, hostAct_start_of_idle hphase⟩
    · exact .inl ⟨_, w, hostAct_start_of_busy hphase, hostAct_start_of_busy hphase⟩
  | write hw =>
    obtain hphase | hphase := idle_or_busy s.phase
    · rw [hostAct_write_of_idle hphase, hostAct_write_of_idle (s := { s with work := w }) hphase]
      exact hostWrite_sameButWork s w hw
    · exact .inr (.inr ⟨_, hostAct_write_of_busy hphase, hostAct_write_of_busy hphase⟩)

theorem step_sameButWork (s : State) (w : Work) : SameButWork (step s) (step { s with work := w }) := by
  rcases step_cases s with ⟨hscript, hidle, heq⟩ | ⟨hbusy, hturn, heq⟩ | ⟨a, rest, hscript, hturn, heq⟩
  · rw [heq, step_idle_nil (s := { s with work := w }) hidle hscript]
    exact .inl ⟨s, w, rfl, rfl⟩
  · have hready : State.Ready { s with work := w } :=
      ⟨hbusy, hturn.imp_right fun ⟨rest, hrest⟩ => by rw [hrest]; rfl⟩
    rw [heq, step_eq_runCommand_of_ready hready]
    exact sameButWork_of_endAlike (runCommand_endAlike s { s with work := w })
  · rw [heq, step_host (s := { s with work := w }) hscript hturn]
    exact hostAct_sameButWork { s with script := rest } w a

/-- Settles O41: a host's view has no field of the working registers. -/
theorem workingRegistersAreInvisible : Obligations.WorkingRegistersAreInvisible := by
  unfold Obligations.WorkingRegistersAreInvisible
  refine ⟨fun s t hidle hreset hstep => ?_, fun s w => ?_⟩
  · rcases step_next_cases hstep with ⟨⟨hbusy, -⟩, -⟩ | ⟨-, rfl⟩ | ⟨a, rest, hscript, hact⟩
    · exact absurd (hbusy.symm.trans hidle) nofun
    · rfl
    · rcases hostAct_next_cases hact with ⟨-, -, rfl⟩ | ⟨rfl, -⟩ | rfl | ⟨hw, -, hwrite⟩
      · rfl
      · exact absurd (by rw [hscript]; rfl) hreset
      · rfl
      · obtain ⟨-, -, -, -, hwork, -⟩ := hostWrite_frame hwrite
        exact hwork
  · rcases step_sameButWork s w with ⟨t, w', heq, heq'⟩ | hfault | hrefused
    · exact .inl ⟨t, w', heq, heq', rfl⟩
    · exact .inr (.inl hfault)
    · exact .inr (.inr hrefused)

end Sys2Proof.Proofs.Independence

/-! SUPPORT. The bytes of each operation's result, and the working registers it leaves. Settles the statements
about results, XorTwiceReturnsMessage, BlockCounterNeverWraps and DecryptionErrorPropagation. -/

namespace Sys2Proof.Proofs.Results

open Sys2Proof Sys2Proof.Machine Sys2Proof.Proofs.Command Sys2Proof.Proofs.Validation
open Sys2Proof.Proofs.Steps Sys2Proof.Proofs.BlockModes Function

/-! ### A command whose operands are known -/

/-- Operands given byte by byte. -/
def given (key nonce iv d : List Byte) : Operands
  | .key => key
  | .nonce => nonce
  | .iv => iv
  | .din => d

section
variable {s : State} {o : Op} {ops : Operands}

theorem operand_of_holds {b : InBuf} {bs : List Byte} (hlen : bs.length = operandLen s b)
    (hholds : Memory.Holds (s.buf b) bs) : operand s b = some bs := operand_eq_some_iff.mpr ⟨hlen, hholds⟩

/-- A command that passes its checks and finds its operands ends with its result. -/
theorem run_of_operands (hpass : firstFailure (o.checks s) = none)
    (hread : ∀ b ∈ o.reads, operand s b = some (ops b)) (hunread : ∀ b, b ∉ o.reads → ops b = []) :
    o.run s = .next (s.succeed (o.output s.ctr ops) (o.work s.ctr s.work ops)) := by
  have hops : operands s o.reads = ops := by
    funext b
    by_cases hb : b ∈ o.reads
    · exact operands_of_operand hb (hread b hb)
    · rw [hunread b hb]; exact if_neg hb
  rw [o.run_of_written hpass fun b hb => by rw [hread b hb]; rfl, Op.complete, hops]

variable {a : ArxCipher} {np : Bool}

theorem firstFailure_append_eq_none_iff (checks checks' : List (Bool × ErrKind)) :
    firstFailure (checks ++ checks') = none ↔ firstFailure checks = none ∧ firstFailure checks' = none := by
  simp only [firstFailure_eq_none_iff, List.forall_mem_append]

theorem keystreamOp_pass :
    firstFailure ((keystreamOp a np).checks s) = none ↔
      firstFailure a.fieldCheck = none ∧ a.keyOk s = true ∧ np = true ∧ s.nlen = a.nonceLen := by
  rw [keystreamOp, firstFailure_append_eq_none_iff, arxChecks_pass]

theorem xorOp_pass :
    firstFailure ((xorOp a np).checks s) = none ↔
      firstFailure a.fieldCheck = none ∧ s.len ≤ s.maxLen ∧ a.keyOk s = true ∧ np = true ∧
        s.nlen = a.nonceLen := by
  rw [xorOp, firstFailure_append_eq_none_iff, firstFailure_inputTooLong_cons, arxChecks_pass]

theorem estCipher_fieldCheck {rnd : BitVec 2} {rounds : Nat} (h : estRounds rnd = some rounds) :
    firstFailure (estCipher rnd).fieldCheck = none := by
  obtain ⟨-, hnone⟩ | ⟨hrnd, -⟩ := estRounds_cases rnd
  · cases hnone.symm.trans h
  · simp only [estCipher, hrnd]; rfl

theorem estKeyOk_iff : s.estKeyOk = true ↔ s.klen = 16 ∨ s.klen = 32 := by simp [State.estKeyOk]

end

/-! ### Keystream blocks (R117, R148) -/

/-- What a keystream-block command leaves in the working registers. -/
def KeystreamWork (s t : State) (b : KeystreamBlock) : Prop :=
  SameFeistelWork s t ∧ t.work.i = s.work.i ∧ t.work.ctr = s.ctr ∧ t.work.s = b.s ∧ t.work.x = b.x ∧
    t.work.ks = b.ks

theorem toList_getElem? {n : Nat} (v : Vector Byte n) {j : Nat} (hj : j < n) :
    v.toList[j]? = some (v.toList.getD j 0) := by
  simp [hj]

theorem keystream_result {s : State} (a : ArxCipher) {key nonce : List Byte}
    (hfield : firstFailure a.fieldCheck = none) (hkeyOk : a.keyOk s = true) (hnlen : s.nlen = a.nonceLen)
    (hkey : operand s .key = some key) (hnonce : operand s .nonce = some nonce) :
    ∃ t, (keystreamOp a true).run s = .next t ∧
      Succeeded t 64 (fun j => (a.block key nonce s.ctr).ks.toList.getD j 0) ∧
      SameCommand s t ∧ KeystreamWork s t (a.block key nonce s.ctr) := by
  have hrun := run_of_operands (ops := given key nonce [] [])
    (keystreamOp_pass.mpr ⟨hfield, hkeyOk, rfl, hnlen⟩)
    (by simp [keystreamOp, given, hkey, hnonce]) (by rintro (_ | _ | _ | _) <;> simp [keystreamOp, given])
  refine ⟨_, hrun, succeeded_succeed s _ Vector.length_toList fun j hj => toList_getElem? _ hj,
    sameCommand_succeed s _ _, ?_⟩
  exact ⟨⟨rfl, rfl, rfl, rfl, rfl, rfl⟩, rfl, rfl, rfl, rfl, rfl⟩

/-- Settles O11: the keystream block of the `RFC` cipher. -/
theorem rfcBlkResult : Obligations.RfcBlkResult := by
  unfold Obligations.RfcBlkResult
  intro dir mode rnd ivp s key nonce hklen hkey hkeyHolds hnlen hnonce hnonceHolds
  obtain ⟨t, hrun, hdone, hsame, hfeistel, hi, hctr, hs, hx, hks⟩ :=
    keystream_result rfcCipher rfl (rfcKeyOk_iff.mpr hklen) hnlen
      (operand_of_holds (by rw [hkey, operandLen, hklen]; rfl) hkeyHolds)
      (operand_of_holds (by rw [hnonce, operandLen, hnlen]; rfl) hnonceHolds)
  exact ⟨t, (exec_eq_run _ s).trans hrun, hdone, hsame, hfeistel, hi, hctr, hs, hx, hks⟩

/-- The block function of `EST` with the round count that `RND` selects. -/
theorem estCipher_block {rnd : BitVec 2} {rounds : Nat} (h : estRounds rnd = some rounds)
    (key nonce : List Byte) :
    (estCipher rnd).block key nonce = estBlock key nonce rounds := by
  simp only [estCipher, h, Option.getD_some]

/-- Settles O12: the keystream block of the `EST` cipher with the round count of `RND`. -/
theorem estBlkResult : Obligations.EstBlkResult := by
  unfold Obligations.EstBlkResult
  intro dir mode rnd ivp s key nonce rounds hrounds hklen hkey hkeyHolds hnlen hnonce hnonceHolds
  obtain ⟨t, hrun, hdone, hsame, hfeistel, hi, hctr, hs, hx, hks⟩ :=
    keystream_result (estCipher rnd) (estCipher_fieldCheck hrounds) (estKeyOk_iff.mpr hklen) hnlen
      (operand_of_holds hkey hkeyHolds)
      (operand_of_holds (by rw [hnonce, operandLen, hnlen]; rfl) hnonceHolds)
  rw [estCipher_block hrounds] at hdone hs hx hks
  exact ⟨t, (exec_eq_run _ s).trans hrun, hdone, hsame, hfeistel, hi, hctr, hs, hx, hks⟩

/-- Settles O10: `exec` meets the reserved round count before any check. -/
theorem estRoundCounts : Obligations.EstRoundCounts := by
  unfold Obligations.EstRoundCounts
  exact ⟨rfl, rfl, rfl, fun dir mode ivp np s =>
    ⟨⟨_, rfl, failedFrom_raise s _⟩, ⟨_, rfl, failedFrom_raise s _⟩⟩⟩

/-! ### The keystream XOR (R118, R149) -/

theorem add_ofNat_succ (c : Word) (i : Nat) :
    add32 c 1 + BitVec.ofNat 32 i = c + BitVec.ofNat 32 (i + 1) := by
  rw [add32_eq, BitVec.add_assoc, Nat.add_comm i 1, BitVec.ofNat_add]; rfl

/-- The loop as one sequence of blocks, block `i` at counter `c + i`. -/
theorem keystreamXor_eq_flatMap (block : Word → KeystreamBlock) (n : Nat) (c : Word) (d : List Byte) :
    keystreamXor block n c d = (List.range n).flatMap fun i =>
      xorBytes ((d.drop (64 * i)).take 64) (block (c + BitVec.ofNat 32 i)).ks.toList := by
  induction n generalizing c d with
  | zero => rfl
  | succ n ih =>
    rw [keystreamXor, ih, List.range_succ_eq_map, List.flatMap_cons, List.flatMap_map]
    simp only [add_ofNat_succ, List.drop_drop, Nat.mul_succ, Nat.add_comm 64, Nat.mul_zero, List.drop_zero,
      BitVec.add_zero]

theorem xorBytes_getElem? {s t : List Byte} {j : Nat} (hs : j < s.length) (ht : j < t.length) :
    (xorBytes s t)[j]? = some (s.getD j 0 ^^^ t.getD j 0) := by
  simp [xorBytes, hs, ht]

theorem keystreamXor_getElem? (block : Word → KeystreamBlock) (n : Nat) (c : Word) {d : List Byte} {j : Nat}
    (hd : d.length ≤ 64 * n) (hj : j < d.length) :
    (keystreamXor block n c d)[j]? =
      some (d.getD j 0 ^^^ (block (c + BitVec.ofNat 32 (j / 64))).ks.toList.getD (j % 64) 0) := by
  induction n generalizing c d j with
  | zero => omega
  | succ n ih =>
    have hblock : (block c).ks.toList.length = 64 := Vector.length_toList
    have hchunk : (xorBytes (d.take 64) (block c).ks.toList).length = min 64 d.length := by
      rw [xorBytes_length, List.length_take, hblock]; omega
    rw [keystreamXor]
    obtain hfirst | ⟨k, rfl⟩ : j < 64 ∨ ∃ k, j = 64 + k :=
      (Nat.lt_or_ge j 64).imp_right Nat.exists_eq_add_of_le
    · rw [List.getElem?_append_left (by omega), xorBytes_getElem? (by simp; omega) (by omega),
        Nat.div_eq_of_lt hfirst, Nat.mod_eq_of_lt hfirst]
      simp [List.getD_eq_getElem?_getD, hfirst]
    · rw [List.getElem?_append_right (by omega), hchunk, Nat.min_eq_left (by omega), Nat.add_sub_cancel_left,
        ih _ (by simp; omega) (by simp; omega), add_ofNat_succ, Nat.add_div_left _ (by decide),
        Nat.add_mod_left]
      simp [List.getD_eq_getElem?_getD]

theorem keystreamXor_getElem?_from_zero (block : Word → KeystreamBlock) {d : List Byte} {j : Nat}
    (hj : j < d.length) :
    (keystreamXor block (ceilDiv d.length 64) 0 d)[j]? = some (d.getD j 0 ^^^ keystreamByte block j) := by
  rw [keystreamXor_getElem? _ _ _ (by unfold ceilDiv; omega) hj, zero_add, keystreamByte]

theorem afterXor_sameFeistel (block : Word → KeystreamBlock) (n double : Nat) (s : State)
    (out : List Byte) : SameFeistelWork s (s.succeed out (s.work.afterXor block n double)) := by
  cases n <;> exact ⟨rfl, rfl, rfl, rfl, rfl, rfl⟩

/-- The length of the output of the whole loop. -/
theorem keystreamXor_message_length (block : Word → KeystreamBlock) (d : List Byte) :
    (keystreamXor block (ceilDiv d.length 64) 0 d).length = d.length :=
  keystreamXor_length block _ 0 (by unfold ceilDiv; omega)

theorem xor_run {s : State} (a : ArxCipher) {key nonce d : List Byte}
    (hpass : firstFailure ((xorOp a true).checks s) = none) (hkey : operand s .key = some key)
    (hnonce : operand s .nonce = some nonce) (hd : operand s .din = some d) :
    (xorOp a true).run s =
      .next (s.succeed (keystreamXor (a.block key nonce) (ceilDiv d.length 64) 0 d)
        (s.work.afterXor (a.block key nonce) (ceilDiv d.length 64) a.double)) :=
  run_of_operands (ops := given key nonce [] d) hpass (by simp [xorOp, given, hkey, hnonce, hd])
    (by rintro (_ | _ | _ | _) <;> simp [xorOp, given])

theorem xor_result {s : State} (a : ArxCipher) {key nonce d : List Byte}
    (hpass : firstFailure ((xorOp a true).checks s) = none) (hkey : operand s .key = some key)
    (hnonce : operand s .nonce = some nonce) (hd : operand s .din = some d) :
    ∃ t, (xorOp a true).run s = .next t ∧
      Succeeded t s.len (fun j => d.getD j 0 ^^^ keystreamByte (a.block key nonce) j) ∧
      SameCommand s t ∧ SameFeistelWork s t := by
  obtain ⟨hdlen, -⟩ := operand_eq_some_iff.mp hd
  refine ⟨_, xor_run a hpass hkey hnonce hd, succeeded_succeed s _ ?_ fun j hj => ?_,
    sameCommand_succeed s _ _, afterXor_sameFeistel _ _ _ s _⟩
  · exact (keystreamXor_message_length _ d).trans hdlen
  · exact keystreamXor_getElem?_from_zero _ (hdlen ▸ hj)

/-- Settles O13: the keystream XOR of the `RFC` cipher. -/
theorem rfcXorResult : Obligations.RfcXorResult := by
  unfold Obligations.RfcXorResult
  intro dir mode rnd ivp s key nonce d hklen hkey hkeyHolds hnlen hnonce hnonceHolds hd hdHolds hlen
  obtain ⟨t, hrun, hresult⟩ := xor_result rfcCipher
    (xorOp_pass.mpr ⟨rfl, hlen, rfcKeyOk_iff.mpr hklen, rfl, hnlen⟩)
    (operand_of_holds (by rw [hkey, operandLen, hklen]; rfl) hkeyHolds)
    (operand_of_holds (by rw [hnonce, operandLen, hnlen]; rfl) hnonceHolds) (operand_of_holds hd hdHolds)
  exact ⟨t, (exec_eq_run _ s).trans hrun, hresult⟩

/-- Settles O14: the keystream XOR of the `EST` cipher with the round count of `RND`. -/
theorem estXorResult : Obligations.EstXorResult := by
  unfold Obligations.EstXorResult
  intro dir mode rnd ivp s key nonce d rounds hrounds hklen hkey hkeyHolds hnlen hnonce hnonceHolds hd
    hdHolds hlen
  obtain ⟨t, hrun, hresult⟩ := xor_result (estCipher rnd)
    (xorOp_pass.mpr ⟨estCipher_fieldCheck hrounds, hlen, estKeyOk_iff.mpr hklen, rfl, hnlen⟩)
    (operand_of_holds hkey hkeyHolds)
    (operand_of_holds (by rw [hnonce, operandLen, hnlen]; rfl) hnonceHolds) (operand_of_holds hd hdHolds)
  rw [estCipher_block hrounds] at hresult
  exact ⟨t, (exec_eq_run _ s).trans hrun, hresult⟩

/-- The same keystream byte is XORed twice, and cancels. -/
theorem keystreamXor_twice (block : Word → KeystreamBlock) (d : List Byte) :
    let out := keystreamXor block (ceilDiv d.length 64) 0 d
    keystreamXor block (ceilDiv out.length 64) 0 out = d := by
  intro out
  have hout : out.length = d.length := keystreamXor_message_length block d
  have hlen : (keystreamXor block (ceilDiv out.length 64) 0 out).length = d.length :=
    (keystreamXor_message_length block out).trans hout
  refine List.ext_getElem? fun j => ?_
  by_cases hj : j < d.length
  · have hbyte : out.getD j 0 = d.getD j 0 ^^^ keystreamByte block j := by
      rw [List.getD_eq_getElem?_getD, keystreamXor_getElem?_from_zero block hj, Option.getD_some]
    rw [keystreamXor_getElem?_from_zero block (hout ▸ hj), hbyte, BitVec.xor_assoc, BitVec.xor_self,
      BitVec.xor_zero, List.getD_eq_getElem _ _ hj, List.getElem?_eq_getElem hj]
  · rw [List.getElem?_eq_none (by omega), List.getElem?_eq_none (by omega)]

/-- The key, the nonce and `MAX_LEN` are the same. -/
structure SameKeyAndNonce (s s' : State) : Prop where
  klen : s'.klen = s.klen
  key : s'.key = s.key
  nlen : s'.nlen = s.nlen
  nonce : s'.nonce = s.nonce
  maxLen : s'.maxLen = s.maxLen

theorem SameKeyAndNonce.operand_key {s s' : State} (h : SameKeyAndNonce s s') :
    operand s' .key = operand s .key := by
  rw [operand, operand, operandLen, operandLen, State.buf_key, State.buf_key, h.key, h.klen]

theorem SameKeyAndNonce.operand_nonce {s s' : State} (h : SameKeyAndNonce s s') :
    operand s' .nonce = operand s .nonce := by
  rw [operand, operand, operandLen, operandLen, State.buf_nonce, State.buf_nonce, h.nonce, h.nlen]

/-- A keystream XOR of the output of another under the same key and nonce. -/
theorem xor_run_twice {a : ArxCipher} {s t s' : State} {d : List Byte} (hsame : SameKeyAndNonce s s')
    (hkeyOk : a.keyOk s' = a.keyOk s) (hd : d.length = s.len) (hdHolds : Memory.Holds s.din d)
    (hrun : (xorOp a true).run s = .next t) (htag : statusTag t.status = 1) (hlen : s'.len = t.olen)
    (hdin : s'.din = t.dout) :
    ∃ t', (xorOp a true).run s' = .next t' ∧ Succeeded t' d.length (fun j => d.getD j 0) := by
  obtain ⟨hpass, hwritten, -⟩ := Op.run_success hrun htag
  obtain ⟨hfield, hfits, hok, -, hnonceLen⟩ := xorOp_pass.mp hpass
  obtain ⟨key, hkeyRead⟩ := Option.isSome_iff_exists.mp (hwritten .key (by simp [xorOp]))
  obtain ⟨nonce, hnonceRead⟩ := Option.isSome_iff_exists.mp (hwritten .nonce (by simp [xorOp]))
  have hfirst := xor_run a hpass hkeyRead hnonceRead (operand_of_holds hd hdHolds)
  obtain rfl := Host.Outcome.next.inj (hfirst.symm.trans hrun)
  rw [State.succeed_olen] at hlen
  rw [State.succeed_dout] at hdin
  have hfits' : s'.len ≤ s'.maxLen := by
    rw [hlen, keystreamXor_message_length, hsame.maxLen, hd]; exact hfits
  have hdRead' : operand s' .din = some (keystreamXor (a.block key nonce) (ceilDiv d.length 64) 0 d) :=
    operand_of_holds hlen.symm fun j _ => by rw [State.buf_din, hdin, Memory.read_result]
  have hrun' := xor_run a (xorOp_pass.mpr ⟨hfield, hfits', hkeyOk.trans hok, rfl, hsame.nlen.trans hnonceLen⟩)
    (hsame.operand_key.trans hkeyRead) (hsame.operand_nonce.trans hnonceRead) hdRead'
  rw [keystreamXor_twice] at hrun'
  exact ⟨_, hrun', succeeded_succeed s' _ rfl fun j hj => by
    rw [List.getD_eq_getElem _ _ hj, List.getElem?_eq_getElem hj]⟩

/-- Settles O26: with its ignored fields left out, the second operation is the first. -/
theorem xorTwiceReturnsMessage : Obligations.XorTwiceReturnsMessage := by
  unfold Obligations.XorTwiceReturnsMessage
  intro i j s t s' d hops hd hdHolds hrun htag hklen hkey hnlen hnonce hmax hlen hdin
  rw [exec_eq_run] at hrun ⊢
  have hsame : SameKeyAndNonce s s' := ⟨hklen, hkey, hnlen, hnonce, hmax⟩
  obtain ⟨_, _, _, _, _, _, _, _, rfl, rfl⟩ | ⟨_, _, _, _, _, _, _, rfl, rfl⟩ := hops
  · have hkeyOk : s'.rfcKeyOk = s.rfcKeyOk := by rw [State.rfcKeyOk, State.rfcKeyOk, hklen]
    exact xor_run_twice hsame hkeyOk hd hdHolds hrun htag hlen hdin
  · have hkeyOk : s'.estKeyOk = s.estKeyOk := by rw [State.estKeyOk, State.estKeyOk, hklen]
    exact xor_run_twice hsame hkeyOk hd hdHolds hrun htag hlen hdin

/-! ### The block counter (R14, R277) -/

/-- A result's byte `j` of block `i`. -/
theorem read_keystream_block {t : State} {n i j : Nat} {d : List Byte} {block : Word → KeystreamBlock}
    (h : Succeeded t n fun a => d.getD a 0 ^^^ keystreamByte block a) (hj : j < 64) (hin : 64 * i + j < n) :
    Memory.read t.dout (64 * i + j) =
      some (d.getD (64 * i + j) 0 ^^^ (block (BitVec.ofNat 32 i)).ks.toList.getD j 0) := by
  obtain ⟨-, -, -, hread⟩ := h
  have hblock : (64 * i + j) / 64 = i := by omega
  have hbyte : (64 * i + j) % 64 = j := by omega
  rw [hread, if_pos hin]
  simp only [keystreamByte, hblock, hbyte]

theorem tag_of_succeeded {t : State} {n : Nat} {f : Nat → Byte} (h : Succeeded t n f) :
    statusTag t.status = 1 := by
  obtain ⟨-, hstatus, -⟩ := h
  rw [hstatus]; decide

/-- Settles O48: `MAX_LEN` allows at most 2^32 blocks, so a 32-bit counter from 0 holds each block's
number. -/
theorem blockCounterNeverWraps : Obligations.BlockCounterNeverWraps := by
  unfold Obligations.BlockCounterNeverWraps
  intro s hmax hlen n
  have hblocks : n ≤ 2 ^ 32 := by
    have hn : n = (s.len + 64 - 1) / 64 := rfl
    omega
  have hvalue (i : Nat) (hi : i < n) : (BitVec.ofNat 32 i).toNat = i := by
    rw [BitVec.toNat_ofNat, Nat.mod_eq_of_lt (by omega)]
  refine ⟨BitVec.ofNat 32, hvalue, fun i j hi hj h => ?_, fun block d _ => ?_, ?_⟩
  · rw [← hvalue i hi, ← hvalue j hj, h]
  · simp only [keystreamXor_eq_flatMap, zero_add]
  · intro dir mode rnd ivp key nonce d hkey hkeyHolds hnonce hnonceHolds hd hdHolds output
    refine ⟨fun hklen hnlen => ?_, fun rounds hrounds hklen hnlen => ?_⟩
    · obtain ⟨t, hexec, hdone, -⟩ := rfcXorResult dir mode rnd ivp s key nonce d hklen
        (by rw [hkey, hklen]; rfl) hkeyHolds hnlen (by rw [hnonce, hnlen]; rfl) hnonceHolds hd hdHolds hlen
      exact ⟨t, hexec, tag_of_succeeded hdone, fun i j _ hj hin => read_keystream_block hdone hj hin⟩
    · obtain ⟨t, hexec, hdone, -⟩ := estXorResult dir mode rnd ivp s key nonce d rounds hrounds hklen hkey
        hkeyHolds hnlen (by rw [hnonce, hnlen]; rfl) hnonceHolds hd hdHolds hlen
      exact ⟨t, hexec, tag_of_succeeded hdone, fun i j _ hj hin => read_keystream_block hdone hj hin⟩

end Sys2Proof.Proofs.Results

/-! SUPPORT. The Feistel operations' results, block by block, and how far a changed ciphertext block reaches.
Settles SingleBlockResults, IndependentModeResults, ChainedEncryptionResults, ChainedDecryptionResults and
DecryptionErrorPropagation. -/

namespace Sys2Proof.Proofs.BlockResults

open Sys2Proof Sys2Proof.Machine Sys2Proof.Proofs.Command Sys2Proof.Proofs.Validation
open Sys2Proof.Proofs.Steps Sys2Proof.Proofs.BlockModes Sys2Proof.Proofs.Results Function

/-! ### Blocks of a sequence -/

/-- Byte `a` of joined blocks is byte `a % 8` of block `a / 8`. -/
theorem joinBlocks_getElem? {bs : List Block} {c : Nat → Block}
    (hc : ∀ i, i < bs.length → bs[i]? = some (c i)) {a : Nat} (ha : a < 8 * bs.length) :
    (joinBlocks bs)[a]? = some (blocksByte c a) := by
  induction bs generalizing c a with
  | nil => simp at ha
  | cons b bs ih =>
    have hb : b.toList.length = 8 := Vector.length_toList
    obtain rfl : b = c 0 := Option.some.inj (hc 0 (Nat.succ_pos _))
    rw [joinBlocks_cons]
    obtain hfirst | ⟨k, rfl⟩ : a < 8 ∨ ∃ k, a = 8 + k :=
      (Nat.lt_or_ge a 8).imp_right Nat.exists_eq_add_of_le
    · rw [List.getElem?_append_left (by omega), blocksByte, Nat.div_eq_of_lt hfirst, Nat.mod_eq_of_lt hfirst]
      exact toList_getElem? _ hfirst
    · rw [List.length_cons] at ha
      have hrest := ih (c := fun i => c (i + 1)) (fun i hi => hc (i + 1) (Nat.succ_lt_succ hi)) (a := k)
        (by omega)
      rw [List.getElem?_append_right (by omega), hb, Nat.add_sub_cancel_left, hrest, blocksByte, blocksByte,
        Nat.add_div_left _ (by decide), Nat.add_mod_left]

/-- The block chained on in decryption: the one before, as split. -/
theorem chnDecBlocks_getElem? (f : Block → Block) (prev : Block) {bs : List Block} {c : Nat → Block}
    (hc : ∀ i, i < bs.length → bs[i]? = some (c i)) {i : Nat} (hi : i < bs.length) :
    (chnDecBlocks f prev bs)[i]? = some (xorBlock (f (c i)) (if i = 0 then prev else c (i - 1))) := by
  induction bs generalizing prev c i with
  | nil => cases hi
  | cons b bs ih =>
    obtain rfl : b = c 0 := Option.some.inj (hc 0 (Nat.succ_pos _))
    rw [chnDecBlocks]
    cases i with
    | zero => rfl
    | succ i =>
      have hrest := ih (c 0) (c := fun i => c (i + 1)) (fun i hi => hc (i + 1) (Nat.succ_lt_succ hi))
        (Nat.lt_of_succ_lt_succ hi)
      rw [List.getElem?_cons_succ, hrest]
      cases i <;> rfl

/-- The ciphertext blocks are the one sequence that chains on itself. -/
theorem chnEncBlocks_getElem? (e : Block → Block) (prev : Block) {bs : List Block} {b c : Nat → Block}
    (hb : ∀ i, i < bs.length → bs[i]? = some (b i))
    (hc : ∀ i, c i = e (xorBlock (b i) (if i = 0 then prev else c (i - 1)))) {i : Nat} (hi : i < bs.length) :
    (chnEncBlocks e prev bs)[i]? = some (c i) := by
  induction bs generalizing prev b c i with
  | nil => cases hi
  | cons x bs ih =>
    obtain rfl : x = b 0 := Option.some.inj (hb 0 (Nat.succ_pos _))
    have hfirst : e (xorBlock (b 0) prev) = c 0 := (hc 0).symm
    rw [chnEncBlocks, hfirst]
    cases i with
    | zero => rfl
    | succ i =>
      refine ih (c 0) (b := fun i => b (i + 1)) (c := fun i => c (i + 1))
        (fun i hi => hb (i + 1) (Nat.succ_lt_succ hi)) (fun i => ?_) (Nat.lt_of_succ_lt_succ hi)
      rw [hc (i + 1)]
      cases i <;> rfl

/-- The chain of ciphertext blocks, without end. -/
def cipherChain (e : Block → Block) (iv : Block) (b : Nat → Block) : Nat → Block
  | 0 => e (xorBlock (b 0) iv)
  | i + 1 => e (xorBlock (b (i + 1)) (cipherChain e iv b i))

theorem cipherChain_eq (e : Block → Block) (iv : Block) (b : Nat → Block) (i : Nat) :
    cipherChain e iv b i = e (xorBlock (b i) (if i = 0 then iv else cipherChain e iv b (i - 1))) := by
  cases i <;> rfl

theorem getLast?_getD {bs : List Block} {c : Nat → Block} (hc : ∀ i, i < bs.length → bs[i]? = some (c i))
    (iv : Block) : bs.getLast?.getD iv = if bs.length = 0 then iv else c (bs.length - 1) := by
  rw [List.getLast?_eq_getElem?]
  split_ifs with hlen
  · rw [List.getElem?_eq_none (by omega)]; rfl
  · rw [hc _ (by omega)]; rfl

/-! ### Working registers (R32, R33) -/

section
variable (s : State) (w : Work) (k : Vector Word 4) (halves : Block → Halves) (n : Nat)
  (last : Option Block) (prev : Block) (out : List Byte)

theorem afterBlocks_k : (w.afterBlocks k halves n last prev).k = k := by cases last <;> rfl

theorem afterBlocks_prev : (w.afterBlocks k halves n last prev).prev = prev := by cases last <;> rfl

theorem afterBlocks_sameArx : SameArxWork s (s.succeed out (s.work.afterBlocks k halves n last prev)) := by
  cases last <;> exact ⟨rfl, rfl, rfl, rfl⟩

end

/-! ### Results -/

section
variable {s : State} {key iv d : List Byte} {halves : FeistelLoop}

theorem blockOp_result (hklen : s.klen = 16) (hlen : s.len = 8) (hfits : s.len ≤ s.maxLen)
    (hkey : operand s .key = some key) (hd : operand s .din = some d) :
    ∃ t, (blockOp halves).run s = .next t ∧
      Succeeded t 8 (fun a => (blockFunction halves key (blockAt d 0)).toList.getD a 0) ∧
      SameCommand s t ∧ SameArxWork s t ∧ t.work.k = feistelKeyWords key ∧
      t.work.prev = s.work.prev ∧ t.work.blk = s.work.blk ∧ t.work.i = s.work.i := by
  have hrun := run_of_operands (o := blockOp halves) (ops := given key [] [] d)
    (blockChecks_pass.mpr ⟨hlen, hfits, hklen⟩)
    (by simp [blockOp, given, hkey, hd]) (by rintro (_ | _ | _ | _) <;> simp [blockOp, given])
  refine ⟨_, hrun, succeeded_succeed s _ Vector.length_toList fun j hj => toList_getElem? _ hj,
    sameCommand_succeed s _ _, ⟨rfl, rfl, rfl, rfl⟩, rfl, rfl, rfl, rfl⟩

/-- The result of a block-mode command is what its blocks say, when there is one for each input block. -/
theorem succeeded_joinBlocks {bs : List Block} {c : Nat → Block} (w : Work)
    (hlen : bs.length = ceilDiv s.len 8) (hc : ∀ i, i < bs.length → bs[i]? = some (c i)) :
    Succeeded (s.succeed (joinBlocks bs) w) (8 * ceilDiv s.len 8) (blocksByte c) :=
  succeeded_succeed s w ((joinBlocks_length bs).trans (congrArg (8 * ·) hlen)) fun _ ha =>
    joinBlocks_getElem? hc (hlen ▸ ha)

theorem split8_blocks (d : List Byte) : ∀ i, i < (split8 d).length → (split8 d)[i]? = some (blockAt d i) :=
  fun _ hi => split8_getElem? (split8_length d ▸ hi)

theorem indOp_result (hklen : s.klen = 16) (hfits : s.len ≤ s.maxLen)
    (hkey : operand s .key = some key) (hd : operand s .din = some d) :
    ∃ t, (indOp halves).run s = .next t ∧
      Succeeded t (8 * ceilDiv s.len 8) (blocksByte fun i => blockFunction halves key (blockAt d i)) ∧
      SameCommand s t ∧ SameArxWork s t ∧ t.work.k = feistelKeyWords key ∧ t.work.prev = s.work.prev := by
  obtain ⟨hdlen, -⟩ := operand_eq_some_iff.mp hd
  have hrun := run_of_operands (o := indOp halves) (ops := given key [] [] d)
    (indChecks_pass.mpr ⟨hfits, hklen⟩)
    (by simp [indOp, given, hkey, hd]) (by rintro (_ | _ | _ | _) <;> simp [indOp, given])
  refine ⟨_, hrun, succeeded_joinBlocks _ ?_ fun i hi => ?_, sameCommand_succeed s _ _,
    afterBlocks_sameArx s _ _ _ _ _ _, afterBlocks_k _ _ _ _ _ _, afterBlocks_prev _ _ _ _ _ _⟩
  · rw [indBlocks_length, split8_length]; exact congrArg (ceilDiv · 8) hdlen
  · rw [indBlocks_length] at hi
    rw [indBlocks, List.getElem?_map, split8_blocks _ i hi]; rfl

theorem ceilDiv_eq_zero_iff (n : Nat) : ceilDiv n 8 = 0 ↔ n = 0 := by unfold ceilDiv; omega

theorem chnEncOp_result (hklen : s.klen = 16) (hivlen : s.ivlen = 8) (hfits : s.len ≤ s.maxLen)
    (hkey : operand s .key = some key) (hiv : operand s .iv = some iv) (hd : operand s .din = some d) :
    ∃ (t : State) (c : Nat → Block), (chnEncOp halves true).run s = .next t ∧
      (∀ i, c i =
        blockFunction halves key (xorBlock (blockAt d i) (if i = 0 then blockAt iv 0 else c (i - 1)))) ∧
      Succeeded t (8 * ceilDiv s.len 8) (blocksByte c) ∧
      SameCommand s t ∧ SameArxWork s t ∧ t.work.k = feistelKeyWords key ∧
      t.work.prev = (if s.len = 0 then blockAt iv 0 else c (ceilDiv s.len 8 - 1)) := by
  obtain ⟨hdlen, -⟩ := operand_eq_some_iff.mp hd
  have hrun := run_of_operands (o := chnEncOp halves true) (ops := given key [] iv d)
    (chnChecks_pass.mpr ⟨hfits, hklen, rfl, hivlen⟩)
    (by simp [chnEncOp, given, hkey, hiv, hd]) (by rintro (_ | _ | _ | _) <;> simp [chnEncOp, given])
  let c := cipherChain (blockFunction halves key) (padBlock iv) (blockAt d)
  have hlen :
      (chnEncBlocks (blockFunction halves key) (padBlock iv) (split8 d)).length = ceilDiv s.len 8 := by
    rw [chnEncBlocks_length, split8_length]; exact congrArg (ceilDiv · 8) hdlen
  have hblocks : ∀ i, i < (chnEncBlocks (blockFunction halves key) (padBlock iv) (split8 d)).length →
      (chnEncBlocks (blockFunction halves key) (padBlock iv) (split8 d))[i]? = some (c i) := fun i hi =>
    chnEncBlocks_getElem? _ _ (split8_blocks d) (cipherChain_eq _ _ _) (chnEncBlocks_length _ _ _ ▸ hi)
  refine ⟨_, c, hrun, cipherChain_eq _ _ _, succeeded_joinBlocks _ hlen hblocks, sameCommand_succeed s _ _,
    afterBlocks_sameArx s _ _ _ _ _ _, afterBlocks_k _ _ _ _ _ _, (afterBlocks_prev _ _ _ _ _ _).trans ?_⟩
  refine (getLast?_getD hblocks _).trans ?_
  rw [hlen]
  simp only [ceilDiv_eq_zero_iff]
  rfl

theorem chnDecOp_result (hklen : s.klen = 16) (hivlen : s.ivlen = 8) (hfits : s.len ≤ s.maxLen)
    (hkey : operand s .key = some key) (hiv : operand s .iv = some iv) (hd : operand s .din = some d) :
    ∃ t, (chnDecOp halves true).run s = .next t ∧
      Succeeded t (8 * ceilDiv s.len 8) (blocksByte fun i =>
        xorBlock (blockFunction halves key (blockAt d i))
          (if i = 0 then blockAt iv 0 else blockAt d (i - 1))) ∧
      SameCommand s t ∧ SameArxWork s t ∧ t.work.k = feistelKeyWords key ∧
      t.work.prev = (if s.len = 0 then blockAt iv 0 else blockAt d (ceilDiv s.len 8 - 1)) := by
  obtain ⟨hdlen, -⟩ := operand_eq_some_iff.mp hd
  have hrun := run_of_operands (o := chnDecOp halves true) (ops := given key [] iv d)
    (chnChecks_pass.mpr ⟨hfits, hklen, rfl, hivlen⟩)
    (by simp [chnDecOp, given, hkey, hiv, hd]) (by rintro (_ | _ | _ | _) <;> simp [chnDecOp, given])
  have hlen : (split8 d).length = ceilDiv s.len 8 := (split8_length d).trans (congrArg (ceilDiv · 8) hdlen)
  refine ⟨_, hrun, succeeded_joinBlocks _ ((chnDecBlocks_length _ _ _).trans hlen) fun i hi => ?_,
    sameCommand_succeed s _ _, afterBlocks_sameArx s _ _ _ _ _ _, afterBlocks_k _ _ _ _ _ _,
    (afterBlocks_prev _ _ _ _ _ _).trans ?_⟩
  · exact chnDecBlocks_getElem? _ _ (split8_blocks d) (chnDecBlocks_length _ _ _ ▸ hi)
  · refine (getLast?_getD (split8_blocks d) _).trans ?_
    rw [hlen]
    simp only [ceilDiv_eq_zero_iff]
    rfl

end

/-- Settles O15: one result for each of the four loops. -/
theorem singleBlockResults : Obligations.SingleBlockResults := by
  unfold Obligations.SingleBlockResults
  intro mode rnd ivp np s key d hklen hkey hkeyHolds hlen hfits hd hdHolds k result
  have hkeyRead := operand_of_holds (b := .key) (hkey.trans (congrArg BitVec.toNat hklen).symm) hkeyHolds
  have hdRead := operand_of_holds (b := .din) (hd.trans hlen.symm) hdHolds
  have hresult (i : Instr) (halves : FeistelLoop) (h : op i = blockOp halves) :
      result i (blockFunction halves key) := by
    obtain ⟨t, hrun, hrest⟩ := blockOp_result (halves := halves) hklen hlen hfits hkeyRead hdRead
    exact ⟨t, by rw [exec_eq_run, h, hrun], hrest⟩
  exact ⟨hresult _ faEncHalves rfl, hresult _ faDecHalves rfl, hresult _ fbEncHalves rfl,
    hresult _ fbDecHalves rfl⟩

/-- Settles O16: one result for each of the four loops. -/
theorem independentModeResults : Obligations.IndependentModeResults := by
  unfold Obligations.IndependentModeResults
  intro rnd ivp np s key d hklen hkey hkeyHolds hd hdHolds hfits k result
  have hkeyRead := operand_of_holds (b := .key) (hkey.trans (congrArg BitVec.toNat hklen).symm) hkeyHolds
  have hdRead := operand_of_holds (b := .din) hd hdHolds
  have hresult (i : Instr) (halves : FeistelLoop) (h : op i = indOp halves) :
      result i (blockFunction halves key) := by
    obtain ⟨t, hrun, hrest⟩ := indOp_result (halves := halves) hklen hfits hkeyRead hdRead
    exact ⟨t, by rw [exec_eq_run, h, hrun], hrest⟩
  exact ⟨hresult _ faEncHalves rfl, hresult _ faDecHalves rfl, hresult _ fbEncHalves rfl,
    hresult _ fbDecHalves rfl⟩

/-- Settles O17: one result for each of the two encryption loops. -/
theorem chainedEncryptionResults : Obligations.ChainedEncryptionResults := by
  unfold Obligations.ChainedEncryptionResults
  intro rnd np s key iv d hklen hkey hkeyHolds hivlen hiv hivHolds hd hdHolds hfits k result
  have hkeyRead := operand_of_holds (b := .key) (hkey.trans (congrArg BitVec.toNat hklen).symm) hkeyHolds
  have hivRead := operand_of_holds (b := .iv) (hiv.trans (congrArg BitVec.toNat hivlen).symm) hivHolds
  have hdRead := operand_of_holds (b := .din) hd hdHolds
  have hresult (i : Instr) (halves : FeistelLoop) (h : op i = chnEncOp halves true) :
      result i (blockFunction halves key) := by
    obtain ⟨t, c, hrun, hrest⟩ :=
      chnEncOp_result (halves := halves) hklen hivlen hfits hkeyRead hivRead hdRead
    exact ⟨t, c, by rw [exec_eq_run, h, hrun], hrest⟩
  exact ⟨hresult _ faEncHalves rfl, hresult _ fbEncHalves rfl⟩

/-- Settles O18: one result for each of the two decryption loops. -/
theorem chainedDecryptionResults : Obligations.ChainedDecryptionResults := by
  unfold Obligations.ChainedDecryptionResults
  intro rnd np s key iv d hklen hkey hkeyHolds hivlen hiv hivHolds hd hdHolds hfits k result
  have hkeyRead := operand_of_holds (b := .key) (hkey.trans (congrArg BitVec.toNat hklen).symm) hkeyHolds
  have hivRead := operand_of_holds (b := .iv) (hiv.trans (congrArg BitVec.toNat hivlen).symm) hivHolds
  have hdRead := operand_of_holds (b := .din) hd hdHolds
  have hresult (i : Instr) (halves : FeistelLoop) (h : op i = chnDecOp halves true) :
      result i (blockFunction halves key) := by
    obtain ⟨t, hrun, hrest⟩ := chnDecOp_result (halves := halves) hklen hivlen hfits hkeyRead hivRead hdRead
    exact ⟨t, by rw [exec_eq_run, h, hrun], hrest⟩
  exact ⟨hresult _ faDecHalves rfl, hresult _ fbDecHalves rfl⟩

/-! ### A changed ciphertext block (R219) -/

/-- Block `i` of the plaintext reads ciphertext blocks `i` and `i - 1`, and tells the values of each apart. -/
theorem chnDecBlocks_set_getElem?_eq_iff {f : Block → Block} (hf : Injective f) (prev : Block)
    {bs : List Block} {j : Nat} {b : Block} (hj : j < bs.length) (hb : bs[j]? ≠ some b)
    {i : Nat} (hi : i < bs.length) :
    (chnDecBlocks f prev (bs.set j b))[i]? = (chnDecBlocks f prev bs)[i]? ↔ i ≠ j ∧ i ≠ j + 1 := by
  let c (i : Nat) : Block := bs.getD i b
  have hc : ∀ i, i < bs.length → bs[i]? = some (c i) := fun i hi => by
    rw [List.getElem?_eq_getElem hi]; exact congrArg some (List.getD_eq_getElem _ _ hi).symm
  have hc' : ∀ i, i < (bs.set j b).length → (bs.set j b)[i]? = some (update c j b i) := fun i hi => by
    rw [List.length_set] at hi
    rw [List.getElem?_set, update_apply]
    by_cases hij : i = j
    · rw [if_pos hij.symm, if_pos hij, if_pos (hij ▸ hi)]
    · rw [if_neg (Ne.symm hij), if_neg hij, hc i hi]
  have hne : b ≠ c j := fun h => hb (h ▸ hc j hj)
  rw [chnDecBlocks_getElem? f prev hc' (by rwa [List.length_set]), chnDecBlocks_getElem? f prev hc hi,
    Option.some_inj]
  by_cases hij : i = j
  · subst hij
    have hprev : (if i = 0 then prev else update c i b (i - 1)) = if i = 0 then prev else c (i - 1) := by
      split_ifs with hzero
      · rfl
      · rw [update_of_ne (by omega)]
    rw [hprev, update_self]
    exact iff_of_false (((xorBlock_left_injective _).comp hf).ne hne) fun h => h.1 rfl
  · rw [update_of_ne hij]
    by_cases hnext : i = j + 1
    · subst hnext
      rw [if_neg (Nat.succ_ne_zero j), if_neg (Nat.succ_ne_zero j), Nat.add_sub_cancel, update_self]
      exact iff_of_false ((xorBlock_right_injective _).ne hne) fun h => h.2 rfl
    · refine iff_of_true ?_ ⟨hij, hnext⟩
      split_ifs with hzero
      · rfl
      · rw [update_of_ne (by omega)]

theorem decA_injective (k : Vector Word 4) : Injective (decA k) := fun b c h => by
  have ⟨_, hb, _, _⟩ := Feistel.feistelInverse k b
  have ⟨_, hc, _, _⟩ := Feistel.feistelInverse k c
  rw [← hb, h, hc]

theorem decB_injective (k : Vector Word 4) : Injective (decB k) := fun b c h => by
  have ⟨_, _, _, hb⟩ := Feistel.feistelInverse k b
  have ⟨_, _, _, hc⟩ := Feistel.feistelInverse k c
  rw [← hb, h, hc]

/-- Settles O35: an injective block function keeps blocks apart, in itself and in what is chained on them. -/
theorem decryptionErrorPropagation : Obligations.DecryptionErrorPropagation := by
  unfold Obligations.DecryptionErrorPropagation
  intro k iv bs j b hj hb f hf i hi
  have hinj : Injective f := by
    obtain rfl | rfl := hf
    · exact decA_injective k
    · exact decB_injective k
  exact ⟨chnDecBlocks_set_getElem?_eq_iff hinj iv hj hb hi, indBlocks_set_getElem?_eq_iff hinj hj hb i⟩

end Sys2Proof.Proofs.BlockResults

/-! SUPPORT. The word primitives as arithmetic, the states that the ARX ciphers start from, their keystream
bytes, and the Feistel iterations as the pseudocode writes them. Settles WordPrimitives, ByteWordConversions,
RfcStateSetUp, EstStateSetUp, KeystreamBlockBytes and FeistelIterations. -/

namespace Sys2Proof.Proofs.Words

open Sys2Proof Sys2Proof.Machine Sys2Proof.Proofs.Encoding Function

/-! ### Words and bytes (R17, R18) -/

theorem rotl32_toNat (a : Word) {n : Nat} (hpos : 1 ≤ n) (hn : n ≤ 31) :
    (rotl32 a n).toNat = (a.toNat * 2 ^ n) % 2 ^ 32 + a.toNat / 2 ^ (32 - n) := by
  have hsplit : 2 ^ 32 = 2 ^ (32 - n) * 2 ^ n := by rw [← Nat.pow_add, Nat.sub_add_cancel (by omega)]
  have hlow : a.toNat / 2 ^ (32 - n) < 2 ^ n := Nat.div_lt_of_lt_mul (hsplit ▸ a.isLt)
  have hturn : n % 32 = n := Nat.mod_eq_of_lt (by omega)
  rw [rotl32, BitVec.toNat_rotateLeft, hturn, Nat.shiftRight_eq_div_pow, Nat.shiftLeft_eq,
    hsplit, Nat.mul_mod_mul_right, ← Nat.shiftLeft_eq, Nat.shiftLeft_add_eq_or_of_lt hlow]

/-- Settles O27: each primitive by its value; a rotation is its two shifted parts, which do not overlap. -/
theorem wordPrimitives : Obligations.WordPrimitives := by
  unfold Obligations.WordPrimitives
  intro a b n
  refine ⟨fun j => BitVec.getLsbD_xor, BitVec.toNat_add a b, ?_, rotl32_toNat a, fun _ => ?_, fun _ => ?_⟩
  · rw [sub32_eq, BitVec.toNat_sub]; omega
  · rw [shl32, BitVec.toNat_shiftLeft, Nat.shiftLeft_eq]
  · rw [shr32, BitVec.toNat_ushiftRight, Nat.shiftRight_eq_div_pow]

theorem leBytes32_le32 (b0 b1 b2 b3 : Byte) : leBytes32 (le32 b0 b1 b2 b3) = #v[b0, b1, b2, b3] := by
  refine Vector.ext fun t ht => ?_
  have hmirror : (leBytes32 (le32 b0 b1 b2 b3))[t] = (beBytes32 (be32 b3 b2 b1 b0))[3 - t] := by
    match t with
    | 0 | 1 | 2 | 3 => rfl
  simp only [hmirror, Feistel.beBytes32_be32]
  interval_cases t <;> rfl

/-- Settles O28: a concatenation is a sum of bytes, and its parts are those bytes. -/
theorem byteWordConversions : Obligations.ByteWordConversions := by
  unfold Obligations.ByteWordConversions
  intro b0 b1 b2 b3
  refine ⟨?_, ?_, leBytes32_le32 b0 b1 b2 b3, Feistel.beBytes32_be32 b0 b1 b2 b3⟩
  · simp only [le32, toNat_append_eq_add]; omega
  · simp only [be32, toNat_append_eq_add]; omega

/-! ### State set-up (R110, R111, R140, R141) -/

/-- Settles O23: slot by slot of the layout of R111. -/
theorem rfcStateSetUp : Obligations.RfcStateSetUp := by
  unfold Obligations.RfcStateSetUp
  intro key nonce c hkey _ le
  have hword (j : Nat) : arxKeyWord key j = le key j := if_pos hkey
  have hconst : arxConsts rfcParams key = rfcParams.const32 := if_pos hkey
  refine Vector.ext fun n hn => ?_
  simp only [arxInit, hconst, hword, Vector.getElem_ofFn]
  interval_cases n <;> rfl

/-- Settles O24: slot by slot of the layout of R141, for the two key lengths. -/
theorem estStateSetUp : Obligations.EstStateSetUp := by
  unfold Obligations.EstStateSetUp
  intro key nonce c _ le
  refine ⟨fun hkey => ?_, fun hkey => ?_⟩
  · have hword (j : Nat) : arxKeyWord key j = le key j := if_pos hkey
    have hconst : arxConsts estParams key = estParams.const32 := if_pos hkey
    refine Vector.ext fun n hn => ?_
    simp only [arxInit, hconst, hword, Vector.getElem_ofFn]
    interval_cases n <;> rfl
  · have hlong : key.length ≠ 32 := by omega
    have hword (j : Nat) : arxKeyWord key j = le key (j % 4) := if_neg hlong
    have hconst : arxConsts estParams key = estParams.const16 := if_neg hlong
    refine Vector.ext fun n hn => ?_
    simp only [arxInit, hconst, hword, Vector.getElem_ofFn]
    interval_cases n <;> rfl

/-! ### Keystream bytes (R54, R116, R146) -/

theorem leBytes32_getElem (w : Word) (t : Fin 4) : (leBytes32 w)[t.val] = w.extractLsb' (8 * t.val) 8 := by
  match t with
  | 0 | 1 | 2 | 3 => rfl

theorem leSerialize_getD (x : Vector Word 16) (j : Fin 16) (t : Fin 4) :
    (leSerialize x).toList.getD (4 * j.val + t.val) 0 = x[j].extractLsb' (8 * t.val) 8 := by
  have hin : 4 * j.val + t.val < 64 := by omega
  have hword : (4 * j.val + t.val) / 4 = j.val := by omega
  have hbyte : (4 * j.val + t.val) % 4 = t.val := by omega
  rw [List.getD_eq_getElem _ _ (by rwa [Vector.length_toList]), Vector.getElem_toList, leSerialize,
    Vector.getElem_ofFn]
  simp only [hword, hbyte]
  exact leBytes32_getElem _ t

/-- The keystream of any double round. -/
theorem arxBlock_byte (double : Vector Word 16 → Vector Word 16) (rounds : Nat) (s : Vector Word 16)
    (j : Fin 16) (t : Fin 4) :
    (arxBlock double rounds s).ks.toList.getD (4 * j.val + t.val) 0 =
      ((double^[rounds] s)[j] + s[j]).extractLsb' (8 * t.val) 8 := by
  have hsum : (arxAdd (double^[rounds] s) s)[j] = (double^[rounds] s)[j] + s[j] := by
    simp [arxAdd]
  rw [arxBlock, leSerialize_getD, hsum]

/-- Settles O25: the double rounds written out are `arxDoubleRound`'s two passes. -/
theorem keystreamBlockBytes : Obligations.KeystreamBlockBytes := by
  unfold Obligations.KeystreamBlockBytes
  intro key nonce c rounds j t
  exact ⟨arxBlock_byte _ _ _ j t, arxBlock_byte _ _ _ j t⟩

/-! ### Feistel iterations (R173 to R177) -/

/-- Settles O31: the iterations are written as the pseudocode is; a selector is two bits of `sum`. -/
theorem feistelIterations : Obligations.FeistelIterations := by
  unfold Obligations.FeistelIterations
  intro k v0 v1 sum
  refine ⟨rfl, rfl, rfl, rfl, ?_, ?_⟩
  · have hbits : (sel0 sum).val = (sum.extractLsb' 0 2).toNat := rfl
    rw [hbits, extractLsb'_toNat_eq_div_mod, Nat.pow_zero, Nat.div_one]; rfl
  · have hbits : (sel1 sum).val = ((sum >>> 11).extractLsb' 0 2).toNat := rfl
    rw [hbits, extractLsb'_toNat_eq_div_mod, Nat.pow_zero, Nat.div_one, BitVec.toNat_ushiftRight,
      Nat.shiftRight_eq_div_pow]
    rfl

end Sys2Proof.Proofs.Words
